-- ==== Sys2Proof/Word.lean ====
section
/-! DEFINITION. The bit-vector types of the block: a byte register or field element, a 16-bit checksum, a 32-bit register
or command word (spec/00_scope.md R8, spec/10_state.md section 2). -/

namespace Sys2Proof

/-- An unsigned byte: a register of `IN` or `OUT`, or an element of GF(256) (R8, R11, R90). -/
abbrev Byte := BitVec 8

/-- A 16-bit checksum or mask (R18, R150). -/
abbrev Half := BitVec 16

/-- A 32-bit register value or command word, bit 0 least significant (R8, R60). -/
abbrev Word := BitVec 32

end Sys2Proof
end

