-- ==== Sys2Proof/Config.lean ====
section
/-! DEFINITION. What is fixed for one machine: the sizes of spec/00_scope.md R7, the admissible field polynomials of
spec/40_gf_engine.md R91 and the CRC parameter record of spec/43_crc.md R150. The values this machine takes for the open
parameters stand in Machine/Params.lean. No behaviour of the block needs a free value, so there is no `opaque` here. -/

namespace Sys2Proof.Config

/-- `DATASIZE`: data bytes of a codeword (R3). -/
abbrev dataSize : Nat := 9

/-- `CHECKSUMSIZE`: parity bytes of a codeword, syndromes, and passes of the locator iteration (R3, R127). -/
abbrev checksumSize : Nat := 3

/-- `CWSIZE`: bytes of a codeword (R3). -/
abbrev cwSize : Nat := 12

/-- `PLEN`: coefficients of a polynomial operand (R7). -/
abbrev plen : Nat := 7

/-- `IN_LEN`: bytes of the input register file. R7 leaves 14..64 open; DESIGN CHOICE, the spec's default (log entry 7). -/
abbrev inLen : Nat := 32

/-- `OUT_LEN`: bytes of the output register file (R7). -/
abbrev outLen : Nat := 13

/-- The 16 admissible values of `FIELD_POLY`, the primitive polynomials of degree 8 (R91). -/
def fieldPolys : List (BitVec 9) :=
  [0x11D, 0x12B, 0x12D, 0x14D, 0x15F, 0x163, 0x165, 0x169, 0x171, 0x187, 0x18D, 0x1A9, 0x1C3, 0x1CF, 0x1E7, 0x1F5]

/-- `CRC_ALG`, the parameter record of `crc_ccitt` (R150). Its sixth field, `width`, is 16 only and is the width of
these fields. -/
structure CrcAlg where
  /-- generator polynomial without its x^16 term -/
  poly : Half
  /-- starting value of the accumulator -/
  init : Half
  /-- reflect each input byte -/
  refin : Bool
  /-- reflect the accumulator before the final exclusive-or -/
  refout : Bool
  /-- exclusive-ored into the accumulator at the end -/
  xorout : Half
  deriving DecidableEq, Repr

end Sys2Proof.Config
end

