-- ==== Sys2Proof/Machine/Crc.lean ====
section
/-! DEFINITION. The pure function `CRCF` of the CRC validator, bit-serial, with the parameter record as an argument
(spec/43_crc.md R150 to R152). -/

namespace Sys2Proof.Machine

/-- One shift of the accumulator: left by one bit, and exclusive-or of `poly` when bit 15 came out (R152). -/
def crcShift (alg : Config.CrcAlg) (acc : Half) : Half :=
  if acc.getLsbD 15 then (acc <<< 1) ^^^ alg.poly else acc <<< 1

/-- Eight shifts (R152). -/
def crcShift8 (alg : Config.CrcAlg) (acc : Half) : Half :=
  (List.range 8).foldl (fun a _ => crcShift alg a) acc

/-- One byte into the accumulator: reflected if the record says so, into the high half, then eight shifts (R151, R152). -/
def crcByte (alg : Config.CrcAlg) (acc : Half) (b : Byte) : Half :=
  crcShift8 alg (acc ^^^ ((if alg.refin then b.reverse else b).setWidth 16 <<< 8))

/-- `CRCACC` after all bytes, in increasing index order: the raw value (R151, R152). -/
def crcRaw (alg : Config.CrcAlg) (bytes : List Byte) : Half :=
  bytes.foldl (crcByte alg) alg.init

/-- The checksum from the raw value: reflected if the record says so, then the final exclusive-or (R152). -/
def crcFinish (alg : Config.CrcAlg) (raw : Half) : Half :=
  (if alg.refout then raw.reverse else raw) ^^^ alg.xorout

/-- `CRCF(bytes)` (R152). -/
def crcF (alg : Config.CrcAlg) (bytes : List Byte) : Half :=
  crcFinish alg (crcRaw alg bytes)

end Sys2Proof.Machine
end

