-- ==== Sys2Proof/Syntax.lean ====
section
/-! DEFINITION. The commands of the block, one constructor per row of spec/opcode_table.json (spec/30_encoding.md R71). -/

namespace Sys2Proof

/-- A command. Every operand is an unsigned byte used as it stands (R64). -/
inductive Instr where
  /-- `GFMUL a, b`, opcode 0x01, format G (R61, R97) -/
  | gfmul (a b : Byte)
  /-- `GFINV a`, opcode 0x02, format G with the `b` field reserved (R61, R98) -/
  | gfinv (a : Byte)
  /-- `PMUL`, opcode 0x03, format N (R63, R100) -/
  | pmul
  /-- `RSENC len`, opcode 0x10, format B (R62, R113) -/
  | rsenc (len : Byte)
  /-- `RSSYN len`, opcode 0x11, format B (R62, R123) -/
  | rssyn (len : Byte)
  /-- `RSDEC len`, opcode 0x12, format B (R62, R140) -/
  | rsdec (len : Byte)
  /-- `CRCCOMP len`, opcode 0x20, format B (R62, R153) -/
  | crccomp (len : Byte)
  /-- `CRCVFY len`, opcode 0x21, format B (R62, R157) -/
  | crcvfy (len : Byte)
  deriving DecidableEq, Repr

end Sys2Proof
end

