-- ==== Sys2Proof/Decode.lean ====
section
/-! DEFINITION. The command decoder and encoder: opcode map, must-be-zero masks, field extraction (spec/30_encoding.md
R60 to R64, R70 to R73), and the encoder written from the same formats. -/

namespace Sys2Proof

/-- The eight opcodes (R71). -/
inductive Opcode where
  | gfmul | gfinv | pmul | rsenc | rssyn | rsdec | crccomp | crcvfy
  deriving DecidableEq, Repr

/-- Why a command word is rejected, in the order the checks are made (R70). -/
inductive DecodeError where
  /-- `w[7:0]` is none of the eight opcodes (R72); the machine reports `ERR = 1` -/
  | illegalOpcode
  /-- a legal opcode with a bit of `MBZ(op)` set (R73); the machine reports `ERR = 2` -/
  | reservedNonzero
  deriving DecidableEq, Repr

/-- The value of `w[7:0]` that selects the opcode (R71). -/
def Opcode.byte : Opcode → Byte
  | .gfmul => 0x01
  | .gfinv => 0x02
  | .pmul => 0x03
  | .rsenc => 0x10
  | .rssyn => 0x11
  | .rsdec => 0x12
  | .crccomp => 0x20
  | .crcvfy => 0x21

/-- `MBZ(op)`, the bits of the command word that must be zero (R71). -/
def Opcode.mbz : Opcode → Word
  | .gfmul => 0xFF000000
  | .gfinv => 0xFFFF0000
  | .pmul => 0xFFFFFF00
  | .rsenc => 0xFFFF0000
  | .rssyn => 0xFFFF0000
  | .rsdec => 0xFFFF0000
  | .crccomp => 0xFFFF0000
  | .crcvfy => 0xFFFF0000

/-- The eight opcodes in the order of the map (R71). -/
def Opcode.all : List Opcode :=
  [.gfmul, .gfinv, .pmul, .rsenc, .rssyn, .rsdec, .crccomp, .crcvfy]

/-- The opcode a byte selects; `none` for the 248 illegal values (R71, R72). -/
def Opcode.ofByte (op : Byte) : Option Opcode :=
  Opcode.all.find? fun o => o.byte == op

/-- `op = w[7:0]` (R60). -/
def opField (w : Word) : Byte := w.extractLsb' 0 8

/-- `a = w[15:8]`, which formats B and G share: operand `a` or `len` (R61, R62, R64). -/
def aField (w : Word) : Byte := w.extractLsb' 8 8

/-- `b = w[23:16]` (R61, R64). -/
def bField (w : Word) : Byte := w.extractLsb' 16 8

/-- The command of an accepted word: its opcode with the operand fields of its format (R61 to R64). -/
def Opcode.instr (w : Word) : Opcode → Instr
  | .gfmul => .gfmul (aField w) (bField w)
  | .gfinv => .gfinv (aField w)
  | .pmul => .pmul
  | .rsenc => .rsenc (aField w)
  | .rssyn => .rssyn (aField w)
  | .rsdec => .rsdec (aField w)
  | .crccomp => .crccomp (aField w)
  | .crcvfy => .crcvfy (aField w)

/-- Decoding of a command word, total on all 2^32 words: the opcode check first, then the reserved bits (R70). -/
def decode (w : Word) : Except DecodeError Instr :=
  match Opcode.ofByte (opField w) with
  | none => .error .illegalOpcode
  | some op => if w &&& op.mbz = 0 then .ok (op.instr w) else .error .reservedNonzero

/-- The opcode of a command (R71). -/
def Instr.opcode : Instr → Opcode
  | .gfmul _ _ => .gfmul
  | .gfinv _ => .gfinv
  | .pmul => .pmul
  | .rsenc _ => .rsenc
  | .rssyn _ => .rssyn
  | .rsdec _ => .rsdec
  | .crccomp _ => .crccomp
  | .crcvfy _ => .crcvfy

/-- The word of format G: `(b << 16) | (a << 8) | op` (R61, R85). Formats B and N leave `b`, or both, zero. -/
def formatWord (b a op : Byte) : Word :=
  (b.setWidth 32 <<< 16) ||| (a.setWidth 32 <<< 8) ||| op.setWidth 32

/-- The word of a command, from the formats of R61 to R63 and the table of R85. -/
def encode (i : Instr) : Word :=
  match i with
  | .gfmul a b => formatWord b a 0x01
  | .gfinv a => formatWord 0 a 0x02
  | .pmul => formatWord 0 0 0x03
  | .rsenc len => formatWord 0 len 0x10
  | .rssyn len => formatWord 0 len 0x11
  | .rsdec len => formatWord 0 len 0x12
  | .crccomp len => formatWord 0 len 0x20
  | .crcvfy len => formatWord 0 len 0x21

/-- The low `nbits` bits of `w` as a command word; every bit above them is zero. A command is one 32-bit word (R60). -/
def tableWord (nbits w : Nat) : Word := BitVec.ofNat 32 (w % 2 ^ nbits)

/-- The instruction the decoder reads from an instruction of the opcode table whose bits are `w`. -/
def decodeTableWord (nbits w : Nat) : Option Instr :=
  match decode (tableWord nbits w) with
  | .ok i => some i
  | .error _ => none

end Sys2Proof
end

