-- ==== Sys2Proof/Machine/State.lean ====
section
/-! DEFINITION. The machine's state as plain data: the register files, `STATUS`, `CTRL`, `CRCMASK` and the hidden
workspace `W` (spec/10_state.md), the accesses that have arrived at the register port and the values reads returned
(spec/20_memory.md R40 to R48), and the state right after reset (spec/70_reset_and_hazards.md R190). -/

namespace Sys2Proof.Machine

/-- The five values `STATUS.ERR` can take (R170). Their 4-bit codes are `errCode`. -/
inductive ErrCode where
  | none | illegalOpcode | reservedNonzero | invalidLength | invZero
  deriving DecidableEq, Repr

/-- The fields of `STATUS` (R15). The reserved bits 31:12 read 0 and are no storage; `ERR` is the five-valued type R170
asks for. -/
structure Status where
  /-- bit 0: a command has executed since reset -/
  valid : Bool
  /-- bit 1: the three syndromes were all zero -/
  sz : Bool
  /-- bit 2: uncorrectable -/
  unc : Bool
  /-- bit 3: the checksum matched -/
  crcok : Bool
  /-- bits 7:4: errors found -/
  errcnt : BitVec 4
  /-- bits 11:8: error code of the last command -/
  err : ErrCode
  deriving DecidableEq, Repr

/-- The hidden workspace `W` (R25). No host access reaches it, and no result depends on what it held (R25, R145). The
loop counters R25 also names are the bound variables of the loops (R182, log entry 8). -/
structure Workspace where
  /-- `SYN[0..6]`, the syndrome polynomial -/
  syn : List Byte
  /-- `LAM[0..6]`, the locator -/
  lam : List Byte
  /-- `AUX[0..6]`, the auxiliary polynomial -/
  aux : List Byte
  /-- `NEW[0..6]`, the locator being formed -/
  new : List Byte
  /-- `PROD[0..12]`, a polynomial product -/
  prod : List Byte
  /-- `OMG[0..2]`, the evaluator -/
  omg : List Byte
  /-- `POS[0..NROOTS-1]`; `NROOTS` is its length -/
  pos : List Nat
  /-- `VAL[0..NROOTS-1]`, the error values -/
  val : List Byte
  /-- `CW[0..11]`, the working copy of the codeword -/
  cw : List Byte
  /-- `PAR[0..2]`, the encoder's shift register -/
  par : List Byte
  /-- `CRCACC` -/
  crcacc : Half
  /-- `L` -/
  ell : Nat
  /-- `K` -/
  kay : Int
  deriving DecidableEq, Repr

/-- What one access carries: a byte, or a 32-bit word (R43). -/
inductive BusData where
  | byte (v : Byte)
  | word (v : Word)
  deriving DecidableEq, Repr

/-- The width of a read (R43). -/
inductive BusWidth where
  | byte | word
  deriving DecidableEq, Repr

/-- What happens at the register port: one host access, or the reset event (R10). Register indices are 8 bits wide
(R23). The host that issued an access is not recorded, since every host is treated alike (R180). -/
inductive Access where
  /-- `HostWrite(reg, v)` (R40) -/
  | hostWrite (reg : BitVec 8) (v : BusData)
  /-- `HostRead(reg)` (R41) -/
  | hostRead (reg : BitVec 8) (width : BusWidth)
  /-- `Reset`, with the bytes that `IN`, `OUT` and `W` happen to hold after it: nothing constrains them (R31, R190) -/
  | resetEvent (inDraw : Vector Byte Config.inLen) (outDraw : Vector Byte Config.outLen) (workDraw : Workspace)
  deriving DecidableEq, Repr

/-- A read's answer: the register index and the value returned (R41). -/
structure Reply where
  reg : BitVec 8
  data : BusData
  deriving DecidableEq, Repr

/-- The register an index selects (spec/10_state.md section 2). -/
inductive Reg where
  | cmd | status | ctrl | crcmask
  | inReg (i : Fin Config.inLen)
  | outReg (i : Fin Config.outLen)
  deriving DecidableEq, Repr

/-- The whole state. -/
structure State where
  /-- `IN[0..31]` (R11) -/
  inBuf : Vector Byte Config.inLen
  /-- `OUT[0..12]` (R11) -/
  outBuf : Vector Byte Config.outLen
  /-- `STATUS` (R15) -/
  status : Status
  /-- `CTRL.MASKEN`, the one implemented bit of `CTRL` (R17) -/
  masken : Bool
  /-- `CRCMASK.MASK`, the 16 implemented bits of `CRCMASK` (R18) -/
  mask : Half
  /-- `W` (R25) -/
  work : Workspace
  /-- The MODEL's own field: accesses that have reached the register port and are not yet performed, in their one total
  order (R48, log entry 1). -/
  pending : List Access
  /-- The MODEL's own field, on the host's side: the answers of the reads performed, the latest first (R41, log entry 2). -/
  replies : List Reply
  deriving DecidableEq, Repr

/-- Why the machine stops with a fault: never. No error, and no sequence of errors, halts the block (R175), so the type
has no constructor (log entry 10). -/
inductive Fault where
  deriving DecidableEq, Repr

/-- Why an access has no transition. -/
inductive Refusal where
  /-- Raised by no meaning: it marks an instruction without one, and every command has one. Safe. -/
  | notModelled (mnemonic : String)
  /-- Raised by a host access to a reserved register index, which the spec gives no meaning (R19). Safe: the model stops
  where a platform may go on. -/
  | reservedIndex
  /-- Raised by a host access of a width other than the register's (R43). Safe: the model stops where a platform may go
  on. -/
  | accessWidth
  deriving DecidableEq, Repr

/-- `STATUS` with every field 0, as reset leaves it (R30). -/
def Status.zero : Status :=
  { valid := false, sz := false, unc := false, crcok := false, errcnt := 0, err := .none }

/-- The workspace of `State.reset`: every element zero. The spec gives no value (R32). DESIGN CHOICE (log entry 3). -/
def Workspace.zero : Workspace :=
  { syn := List.replicate 7 0, lam := List.replicate 7 0, aux := List.replicate 7 0, new := List.replicate 7 0,
    prod := List.replicate 13 0, omg := List.replicate 3 0, pos := [], val := [], cw := List.replicate 12 0,
    par := List.replicate 3 0, crcacc := 0, ell := 0, kay := 0 }

/-- The machine right after reset: `STATUS`, `CTRL` and `CRCMASK` are zero (R30, R190). `IN`, `OUT` and `W` are
unspecified (R31, R32); they are zero here, a DESIGN CHOICE (log entry 3). No access has arrived. -/
def State.reset : State :=
  { inBuf := Vector.replicate Config.inLen 0, outBuf := Vector.replicate Config.outLen 0, status := Status.zero,
    masken := false, mask := 0, work := Workspace.zero, pending := [], replies := [] }

end Sys2Proof.Machine
end

