-- ==== Sys2Proof/Machine/Flags.lean ====
section
/-! DEFINITION. Every flag computation: the code of each error, the fields of `STATUS`, and the words `STATUS`, `CTRL` and
`CRCMASK` read as (spec/10_state.md R13, R15 to R18, spec/60_exceptions.md R170). -/

namespace Sys2Proof.Machine

/-- `code(E)`, the value of `STATUS[11:8]` (R170). -/
def errCode : ErrCode → BitVec 4
  | .none => 0
  | .illegalOpcode => 1
  | .reservedNonzero => 2
  | .invalidLength => 3
  | .invZero => 4

/-- The first line of the command frame: `SZ`, `UNC`, `CRCOK`, `ERRCNT` and `ERR` become 0 (R13, R16). -/
def clearFlags (s : State) : State :=
  { s with status :=
      { valid := s.status.valid, sz := false, unc := false, crcok := false, errcnt := 0, err := .none } }

/-- The last line of the command frame: `VALID` becomes 1 (R16). -/
def setValid (s : State) : State :=
  { s with status := { s.status with valid := true } }

/-- `STATUS.SZ <- b` (R123). -/
def setSz (b : Bool) (s : State) : State :=
  { s with status := { s.status with sz := b } }

/-- `STATUS.CRCOK <- b` (R157). -/
def setCrcok (b : Bool) (s : State) : State :=
  { s with status := { s.status with crcok := b } }

/-- `STATUS.ERRCNT`, `STATUS.UNC` and `STATUS.SZ` from the decoder's results (R140). -/
def setDecodeFlags (errorsFound : Nat) (unc sz : Bool) (s : State) : State :=
  { s with status := { s.status with errcnt := BitVec.ofNat 4 errorsFound, unc := unc, sz := sz } }

/-- One bit at position `i` of a 32-bit register. -/
def flagBit (b : Bool) (i : Nat) : Word := (BitVec.ofBool b).setWidth 32 <<< i

/-- The word `STATUS` reads as; bits 31:12 are 0 (R15). -/
def statusWord (st : Status) : Word :=
  flagBit st.valid 0 ||| flagBit st.sz 1 ||| flagBit st.unc 2 ||| flagBit st.crcok 3
    ||| st.errcnt.setWidth 32 <<< 4 ||| (errCode st.err).setWidth 32 <<< 8

/-- The word `CTRL` reads as; bits 31:1 are 0 (R17). -/
def ctrlWord (masken : Bool) : Word := flagBit masken 0

/-- The word `CRCMASK` reads as; bits 31:16 are 0 (R18). -/
def crcmaskWord (mask : Half) : Word := mask.setWidth 32

/-- The mask `CRCVFY` applies: `MASK` when `MASKEN = 1`, else 0 (R157). -/
def activeMask (s : State) : Half := if s.masken then s.mask else 0

end Sys2Proof.Machine
end

