-- ==== Sys2Proof/Machine/Operands.lean ====
section
/-! DEFINITION. Every operand form: the bytes of `IN` a command reads, the polynomials of `PMUL`, the trailing checksum of
a PDU, and a 16-bit value as two bytes (spec/30_encoding.md R75, R80, R81, R83, spec/43_crc.md R155). -/

namespace Sys2Proof.Machine

/-- `IN[0..n-1]`, in index order (R75). -/
def inPrefix (s : State) (n : Nat) : List Byte := s.inBuf.toList.take n

/-- `IN[i]` for an index of the file (R9). -/
def inByte (s : State) (i : Nat) : Byte := s.inBuf.toList.getD i 0

/-- `p1 = IN[0..6]`, lowest degree first (R81). -/
def polyOperand1 (s : State) : List Byte := inPrefix s Config.plen

/-- `p2 = IN[7..13]`, lowest degree first (R81). -/
def polyOperand2 (s : State) : List Byte := (s.inBuf.toList.drop Config.plen).take Config.plen

/-- `(hi << 8) | lo` (R8, R83). -/
def halfOf (hi lo : Byte) : Half := (hi.setWidth 16 <<< 8) ||| lo.setWidth 16

/-- `k[15:8]` then `k[7:0]`: a 16-bit value as two bytes, most significant first (R83, R155). -/
def halfBytes (k : Half) : List Byte := [k.extractLsb' 8 8, k.extractLsb' 0 8]

/-- The trailing checksum `T` of a PDU of `len` bytes in `IN` (R155). -/
def trailingChecksum (s : State) (len : Nat) : Half :=
  halfOf (inByte s (len - 2)) (inByte s (len - 1))

end Sys2Proof.Machine
end

