-- ==== Sys2Proof/Machine/Ops.lean ====
section
/-! DEFINITION. The named operations over the registers: writing results to `OUT`, raising an error (the block's only
exception), the frame of every command, the register map, and reading and writing one register (spec/10_state.md,
spec/20_memory.md R40, R41, R43, spec/60_exceptions.md R171). -/

namespace Sys2Proof.Machine

/-- `v` with `bs` stored from index `i` on; a byte beyond the end goes nowhere. -/
def storeFrom {n : Nat} (v : Vector Byte n) (i : Nat) : List Byte → Vector Byte n
  | [] => v
  | b :: bs => storeFrom (v.setIfInBounds i b) (i + 1) bs

/-- `OUT[i] <- bs[i]` for each byte of `bs`; every other `OUT` byte keeps its value (R11, R75). -/
def writeOut (bs : List Byte) (s : State) : State :=
  { s with outBuf := storeFrom s.outBuf 0 bs }

/-- The hidden workspace after a command (R25). -/
def setWork (w : Workspace) (s : State) : State := { s with work := w }

/-- `raise E` inside a command, whose result flags its frame has cleared: `STATUS.ERR <- code(E)`, and nothing else is
written (R171). Nothing is saved and control goes nowhere (R177), and there is no return from it (R178). -/
def raiseError (e : ErrCode) (s : State) : State :=
  { s with status := { s.status with err := e } }

/-- The frame every command executes in: clear the result flags and `ERR`, run the body, set `VALID` (R16). -/
def commandFrame (body : State → State) (s : State) : Host.Outcome State Fault Refusal :=
  .next (setValid (body (clearFlags s)))

/-- The error a rejected command word reports (R70, R170). -/
def decodeErrCode : DecodeError → ErrCode
  | .illegalOpcode => .illegalOpcode
  | .reservedNonzero => .reservedNonzero

/-- A command word the decoder rejects: the frame around the error it reports (R70, R72, R73). -/
def rejectCommand (e : DecodeError) (s : State) : Host.Outcome State Fault Refusal :=
  commandFrame (raiseError (decodeErrCode e)) s

/-- The register an index selects; `none` for the reserved indices (R19, R47, spec/10_state.md section 2). -/
def regAt (index : BitVec 8) : Option Reg :=
  let n := index.toNat
  if n = 0x00 then some .cmd
  else if n = 0x01 then some .status
  else if n = 0x02 then some .ctrl
  else if n = 0x03 then some .crcmask
  else if h : 0x40 ≤ n ∧ n < 0x40 + Config.inLen then some (.inReg ⟨n - 0x40, by omega⟩)
  else if h : 0x80 ≤ n ∧ n < 0x80 + Config.outLen then some (.outReg ⟨n - 0x80, by omega⟩)
  else none

/-- The width of a register (R43). -/
def regWidth : Reg → BusWidth
  | .cmd => .word
  | .status => .word
  | .ctrl => .word
  | .crcmask => .word
  | .inReg _ => .byte
  | .outReg _ => .byte

/-- The width of what an access carries (R43). -/
def dataWidth : BusData → BusWidth
  | .byte _ => .byte
  | .word _ => .word

/-- The value a register reads as (R14, R15, R17, R18, R41). -/
def readReg (s : State) : Reg → BusData
  | .cmd => .word 0
  | .status => .word (statusWord s.status)
  | .ctrl => .word (ctrlWord s.masken)
  | .crcmask => .word (crcmaskWord s.mask)
  | .inReg i => .byte s.inBuf[i]
  | .outReg i => .byte s.outBuf[i]

/-- `HostRead(reg)`: the register's value goes to the host and nothing else changes; a reserved index or another width is
refused (R19, R41, R43). -/
def hostRead (index : BitVec 8) (width : BusWidth) (s : State) : Host.Outcome State Fault Refusal :=
  match regAt index with
  | none => .refused .reservedIndex
  | some r =>
    if width = regWidth r then .next { s with replies := { reg := index, data := readReg s r } :: s.replies }
    else .refused .accessWidth

/-- `CTRL.MASKEN <- v[0]`, and `v[31:1]` is ignored (R17). -/
def writeCtrl (v : Word) (s : State) : State := { s with masken := v.getLsbD 0 }

/-- `CRCMASK.MASK <- v[15:0]`, and `v[31:16]` is ignored (R18). -/
def writeCrcmask (v : Word) (s : State) : State := { s with mask := v.setWidth 16 }

/-- `IN[i] <- v` (R40). -/
def writeIn (i : Fin Config.inLen) (v : Byte) (s : State) : State :=
  { s with inBuf := s.inBuf.set i v }

/-- The reset event: three registers zero, and `IN`, `OUT` and `W` hold whatever the event draws (R30 to R32, R190). What
is waiting at the port, and what the hosts have read, is outside the block and stays. -/
def resetBlock (inDraw : Vector Byte Config.inLen) (outDraw : Vector Byte Config.outLen) (workDraw : Workspace)
    (s : State) : State :=
  { s with inBuf := inDraw, outBuf := outDraw, work := workDraw, status := Status.zero, masken := false, mask := 0 }

end Sys2Proof.Machine
end

