-- ==== Sys2Proof/Machine/Params.lean ====
section
/-! DEFINITION. The values this machine takes for the open parameters of spec/00_scope.md R7, and the encoder's constant
coefficients (spec/10_state.md R22). The engines take the field polynomial and the CRC record as arguments, so that a
statement about an engine can quantify over every admissible value. -/

namespace Sys2Proof.Machine

/-- `FIELD_POLY`: the spec's default 0x11D (R91). DESIGN CHOICE (log entry 5). -/
def fieldPoly : BitVec 9 := 0x11D

/-- `CRC_ALG` for `crc_ccitt`: the spec's default record (R150). DESIGN CHOICE (log entry 6). -/
def crcAlg : Config.CrcAlg :=
  { poly := 0x1021, init := 0x0000, refin := false, refout := false, xorout := 0xFFFF }

/-- `g0`, the constant term of the generator polynomial (R110). -/
def gen0 : Byte := 0x40

/-- `g1` (R110). -/
def gen1 : Byte := 0x38

/-- `g2` (R110). -/
def gen2 : Byte := 0x0E

end Sys2Proof.Machine
end

