-- ==== Sys2Proof/Machine/CrcCommands.lean ====
section
/-! DEFINITION. The meanings of `CRCCOMP` and `CRCVFY` (spec/43_crc.md R153, R157). -/

namespace Sys2Proof.Machine

/-- `CRCACC` after the bytes `bs` (R25, R152). -/
def runCrc (alg : Config.CrcAlg) (bs : List Byte) (w : Workspace) : Workspace :=
  { w with crcacc := crcRaw alg bs }

/-- `CRCCOMP len`: the checksum of `IN[0..len-1]` to `OUT[0..1]` (R153). -/
def execCrccomp (len : Byte) (s : State) : Host.Outcome State Fault Refusal :=
  commandFrame (fun s =>
    if Config.inLen < len.toNat then raiseError .invalidLength s
    else
      let w := runCrc crcAlg (inPrefix s len.toNat) s.work
      writeOut (halfBytes (crcFinish crcAlg w.crcacc)) (setWork w s)) s

/-- `CRCVFY len`: the masked checksum of `IN[0..len-3]` to `OUT[0..1]`, and whether it is the trailing one (R157). -/
def execCrcvfy (len : Byte) (s : State) : Host.Outcome State Fault Refusal :=
  commandFrame (fun s =>
    if len.toNat < 2 ∨ Config.inLen < len.toNat then raiseError .invalidLength s
    else
      let w := runCrc crcAlg (inPrefix s (len.toNat - 2)) s.work
      let v := crcFinish crcAlg w.crcacc ^^^ activeMask s
      setCrcok (v == trailingChecksum s len.toNat) (writeOut (halfBytes v) (setWork w s))) s

end Sys2Proof.Machine
end

