-- ==== Sys2Proof/Machine/Field.lean ====
section
/-! DEFINITION. The Galois field engine's pure functions (spec/40_gf_engine.md): the `EXP` and `LOG` ROMs, `GFMulF`,
`GFInvF`, `PolyMulF`. Every function takes the field polynomial as an argument. A polynomial is a list of bytes, lowest
degree first; a coefficient beyond the list's end is zero. -/

namespace Sys2Proof.Machine

/-- The contents of the two ROMs as bit images: byte `i` of `exp` is `EXP[i]`, byte `a` of `log` is `LOG[a]` (R20, R21).
One number per ROM lets Lean's kernel read an entry in one step. -/
structure FieldRom where
  exp : Nat
  log : Nat
  deriving DecidableEq, Repr

/-- The table construction loop of R92 from index `i` on, with `fuel` entries to go, `x` being `EXP[i]`. -/
def romLoop (fp : BitVec 9) : Nat → Nat → Nat → FieldRom → FieldRom
  | 0, _, _, rom => rom
  | fuel + 1, i, x, rom =>
    let y := x <<< 1
    romLoop fp fuel (i + 1) (if y.testBit 8 then y ^^^ fp.toNat else y)
      { exp := rom.exp ||| x <<< (8 * i), log := rom.log ||| i <<< (8 * x) }

/-- The ROMs for a field polynomial: `EXP[0..254]` and `LOG[1..255]` from the loop, then `EXP[255] = EXP[0] = 1` (R92). -/
def fieldRom (fp : BitVec 9) : FieldRom :=
  romLoop fp 255 0 1 { exp := 1 <<< (8 * 255), log := 0 }

/-- The `EXP` ROM image. -/
def expRom (fp : BitVec 9) : Nat := (fieldRom fp).exp

/-- The `LOG` ROM image. -/
def logRom (fp : BitVec 9) : Nat := (fieldRom fp).log

/-- `EXP[i]` for `i` in 0..255 (R20). No rule reads a larger index. -/
def gfExp (fp : BitVec 9) (i : Nat) : Byte := BitVec.ofNat 8 (expRom fp >>> (8 * i))

/-- `LOG[a]`, a partial function: `LOG[0]` does not exist (R21). -/
def gfLog (fp : BitVec 9) (a : Byte) : Option Nat :=
  if a = 0 then none else some (logRom fp >>> (8 * a.toNat) % 256)

/-- `GFMulF(a, b)`, written `a ⊗ b`: zero if an operand is zero, else `EXP[(LOG[a] + LOG[b]) mod 255]` (R95). -/
def gfMul (fp : BitVec 9) (a b : Byte) : Byte :=
  match gfLog fp a, gfLog fp b with
  | some la, some lb => gfExp fp ((la + lb) % 255)
  | _, _ => 0

/-- `GFInvF(a) = EXP[255 - LOG[a]]`; not defined at 0 (R96). -/
def gfInv (fp : BitVec 9) (a : Byte) : Option Byte :=
  (gfLog fp a).map fun l => gfExp fp (255 - l)

/-- `a ⊘ b = a ⊗ GFInvF(b)`, defined for `b != 0` only (R8, R101). -/
def gfDiv (fp : BitVec 9) (a b : Byte) : Option Byte :=
  (gfInv fp b).map fun v => gfMul fp a v

/-- The sum in GF(256), exclusive-or, of a list of bytes (R90). -/
def xorSum (xs : List Byte) : Byte := xs.foldl (· ^^^ ·) 0

/-- The coefficient of degree `k`. -/
def coeff (p : List Byte) (k : Nat) : Byte := p.getD k 0

/-- Coefficient `k` of the product: the sum of `p1[i] ⊗ p2[j]` over all `i`, `j` in 0..6 with `i + j = k` (R99). -/
def productCoeff (fp : BitVec 9) (p1 p2 : List Byte) (k : Nat) : Byte :=
  xorSum ((List.range Config.plen).map fun i =>
    if i ≤ k ∧ k - i < Config.plen then gfMul fp (coeff p1 i) (coeff p2 (k - i)) else 0)

/-- `PolyMulF(p1, p2)`: the 13 coefficients of the whole product (R99). -/
def polyMul (fp : BitVec 9) (p1 p2 : List Byte) : List Byte :=
  (List.range Config.outLen).map (productCoeff fp p1 p2)

end Sys2Proof.Machine
end

