-- ==== Sys2Proof/Machine/Galois.lean ====
section
/-! DEFINITION. The meanings of `GFMUL`, `GFINV` and `PMUL` (spec/40_gf_engine.md R97, R98, R100). -/

namespace Sys2Proof.Machine

/-- `GFMUL a, b`: `OUT[0] <- a ⊗ b` (R97). -/
def execGfmul (a b : Byte) (s : State) : Host.Outcome State Fault Refusal :=
  commandFrame (writeOut [gfMul fieldPoly a b]) s

/-- `GFINV a`: `InvZero` where the inverse is not defined, that is for `a = 0`; else `OUT[0]` is the inverse (R98). -/
def execGfinv (a : Byte) (s : State) : Host.Outcome State Fault Refusal :=
  commandFrame (fun s =>
    match gfInv fieldPoly a with
    | none => raiseError .invZero s
    | some v => writeOut [v] s) s

/-- `PROD = PolyMulF(p1, p2)` in the workspace (R25, R99). -/
def runProduct (fp : BitVec 9) (p1 p2 : List Byte) (w : Workspace) : Workspace :=
  { w with prod := polyMul fp p1 p2 }

/-- `PMUL`: `OUT[0..12]` is the product of the two polynomials in `IN[0..13]` (R100). -/
def execPmul (s : State) : Host.Outcome State Fault Refusal :=
  commandFrame (fun s =>
    let w := runProduct fieldPoly (polyOperand1 s) (polyOperand2 s) s.work
    writeOut w.prod (setWork w s)) s

end Sys2Proof.Machine
end

