-- ==== Sys2Proof/Machine/RsCode.lean ====
section
/-! DEFINITION. The pure functions of the Reed-Solomon(12,9,4) codec: `RSEncF` (spec/41_rs_encode.md), `RSSynF` and the
stages of the decoder, assembled into `RSDecF` (spec/42_rs_decode.md). A codeword is a list of 12 bytes, the coefficient
of x^11 first (spec/30_encoding.md R80). -/

namespace Sys2Proof.Machine

/-- The running remainder `PAR[2]·x² + PAR[1]·x + PAR[0]` of the encoder (R112). -/
structure Parity where
  p2 : Byte
  p1 : Byte
  p0 : Byte
  deriving DecidableEq, Repr

/-- One step of the encoder's shift register: all three assignments use the values from before the step (R112). -/
def lfsrStep (fp : BitVec 9) (r : Parity) (d : Byte) : Parity :=
  let fb := d ^^^ r.p2
  { p2 := r.p1 ^^^ gfMul fp gen2 fb
    p1 := r.p0 ^^^ gfMul fp gen1 fb
    p0 := gfMul fp gen0 fb }

/-- The remainder after all data bytes (R112). -/
def rsRemainder (fp : BitVec 9) (data : List Byte) : Parity :=
  data.foldl (lfsrStep fp) { p2 := 0, p1 := 0, p0 := 0 }

/-- `RSEncF(d)`: the data, then the remainder, highest degree first (R111, R112). -/
def rsEncode (fp : BitVec 9) (data : List Byte) : List Byte :=
  let r := rsRemainder fp data
  data ++ [r.p2, r.p1, r.p0]

/-- The three syndromes (R121). -/
structure Syndromes where
  s1 : Byte
  s2 : Byte
  s3 : Byte
  deriving DecidableEq, Repr

/-- Horner's method at `α^j`, starting from byte 0 (R121). -/
def horner (fp : BitVec 9) (j : Nat) (c : List Byte) : Byte :=
  c.foldl (fun acc b => gfMul fp acc (gfExp fp j) ^^^ b) 0

/-- `RSSynF(c)` (R121). -/
def rsSyndromes (fp : BitVec 9) (c : List Byte) : Syndromes :=
  { s1 := horner fp 1 c, s2 := horner fp 2 c, s3 := horner fp 3 c }

/-- All three syndromes are zero (R123, R125). -/
def Syndromes.allZero (S : Syndromes) : Bool := S.s1 == 0 && S.s2 == 0 && S.s3 == 0

/-- The syndrome polynomial `SYN = (S1, S2, S3, 0, 0, 0, 0)` (R126). -/
def Syndromes.poly (S : Syndromes) : List Byte := [S.s1, S.s2, S.s3, 0, 0, 0, 0]

/-- What the locator iteration carries from pass to pass (R126, R127). -/
structure LocatorState where
  lam : List Byte
  aux : List Byte
  ell : Nat
  kay : Int
  deriving DecidableEq, Repr

/-- `LAM = 1`, `AUX = z`, `L = 0`, `K = -1` (R126). -/
def locatorStart : LocatorState :=
  { lam := [1, 0, 0, 0, 0, 0, 0], aux := [0, 1, 0, 0, 0, 0, 0], ell := 0, kay := -1 }

/-- The discrepancy of pass `n`. `n - i` is never negative from `locatorStart` on, and the guard changes nothing (R127). -/
def discrepancy (fp : BitVec 9) (syn : List Byte) (st : LocatorState) (n : Nat) : Byte :=
  xorSum ((List.range (st.ell + 1)).map fun i =>
    if i ≤ n then gfMul fp (coeff st.lam i) (coeff syn (n - i)) else 0)

/-- `NEW = LAM + d·AUX` (R127). -/
def locatorNew (fp : BitVec 9) (st : LocatorState) (d : Byte) : List Byte :=
  (List.range Config.plen).map fun i => coeff st.lam i ^^^ gfMul fp d (coeff st.aux i)

/-- `AUX = z·AUX`, at the end of every pass (R127). -/
def shiftAux (st : LocatorState) : LocatorState :=
  { st with aux := 0 :: st.aux.take 6 }

/-- The update of pass `n` for a discrepancy `d`, before the shift (R127). `GFInvF` is applied only where `d != 0`, so the
default is never read (log entry 12). -/
def locatorUpdate (fp : BitVec 9) (st : LocatorState) (n : Nat) (d : Byte) : LocatorState :=
  if d = 0 then st
  else if (st.ell : Int) < n - st.kay then
    let dinv := (gfInv fp d).getD 0
    { lam := locatorNew fp st d
      aux := (List.range Config.plen).map fun i => gfMul fp (coeff st.lam i) dinv
      ell := (n - st.kay).toNat
      kay := n - st.ell }
  else { st with lam := locatorNew fp st d }

/-- Pass `n` of the iteration (R127). -/
def locatorPass (fp : BitVec 9) (syn : List Byte) (st : LocatorState) (n : Nat) : LocatorState :=
  shiftAux (locatorUpdate fp st n (discrepancy fp syn st n))

/-- The three passes `n = 0, 1, 2` (R127). -/
def locator (fp : BitVec 9) (syn : List Byte) : LocatorState :=
  (List.range Config.checksumSize).foldl (locatorPass fp syn) locatorStart

/-- The evaluator: the three lowest coefficients of a product (R130). -/
def evaluatorOf (prod : List Byte) : List Byte := prod.take Config.checksumSize

/-- The locator evaluated at `α^r`, all seven coefficients (R132). -/
def chienValue (fp : BitVec 9) (lam : List Byte) (r : Nat) : Byte :=
  xorSum ((List.range Config.plen).map fun k => gfMul fp (gfExp fp ((k * r) % 255)) (coeff lam k))

/-- The Chien search: `r` from 1 to 255 in increasing order, position `255 - r` recorded at each zero (R132). -/
def chienSearch (fp : BitVec 9) (lam : List Byte) : List Nat :=
  ((List.range' 1 255).filter fun r => chienValue fp lam r == 0).map fun r => 255 - r

/-- `Ω(α^-i)`, with `e` the exponent `(255 - i) mod 255` (R136). -/
def evaluatorAt (fp : BitVec 9) (omg : List Byte) (e : Nat) : Byte :=
  xorSum ([0, 1, 2].map fun j => gfMul fp (coeff omg j) (gfExp fp ((e * j) % 255)))

/-- `Λ'(α^-i)`, the odd terms of the locator (R136). -/
def derivativeAt (fp : BitVec 9) (lam : List Byte) (e : Nat) : Byte :=
  xorSum ([1, 3, 5].map fun j => gfMul fp (coeff lam j) (gfExp fp ((e * (j - 1)) % 255)))

/-- The error value at position `i`; `none` when the derivative is zero (R136, R137). -/
def errorValue (fp : BitVec 9) (lam omg : List Byte) (i : Nat) : Option Byte :=
  let e := (255 - i) % 255
  gfDiv fp (evaluatorAt fp omg e) (derivativeAt fp lam e)

/-- The error values of all positions; `none` when any derivative is zero (R136, R137). -/
def errorValues (fp : BitVec 9) (lam omg : List Byte) : List Nat → Option (List Byte)
  | [] => some []
  | i :: rest =>
    match errorValue fp lam omg i, errorValues fp lam omg rest with
    | some v, some vs => some (v :: vs)
    | _, _ => none

/-- `CW[11 - p] ^= v` (R138). -/
def correctByte (cw : List Byte) (p : Nat) (v : Byte) : List Byte :=
  cw.set (11 - p) (coeff cw (11 - p) ^^^ v)

/-- The corrections, each position with its value (R138). -/
def applyCorrections (cw : List Byte) (pos : List Nat) (val : List Byte) : List Byte :=
  (pos.zip val).foldl (fun c pv => correctByte c pv.1 pv.2) cw

/-- What `RSDecF` returns: `cw_out` (or none), `errorsFound`, `uncorrectable`, `sz` (R139). -/
structure DecodeResult where
  codeword : Option (List Byte)
  errorsFound : Nat
  uncorrectable : Bool
  syndromesZero : Bool
  deriving DecidableEq, Repr

/-- `RSDecF(len, c)` as R139 assembles it. -/
def rsDecode (fp : BitVec 9) (len : Nat) (c : List Byte) : DecodeResult :=
  if len ≠ Config.cwSize then
    { codeword := none, errorsFound := 0, uncorrectable := true, syndromesZero := false }
  else
    let S := rsSyndromes fp c
    if S.allZero then
      { codeword := some c, errorsFound := 0, uncorrectable := false, syndromesZero := true }
    else
      let lam := (locator fp S.poly).lam
      let omg := evaluatorOf (polyMul fp lam S.poly)
      let pos := chienSearch fp lam
      if pos.length = 0 then
        { codeword := some c, errorsFound := 0, uncorrectable := false, syndromesZero := false }
      else if Config.checksumSize ≤ pos.length then
        { codeword := some c, errorsFound := pos.length, uncorrectable := true, syndromesZero := false }
      else if pos.any (fun p => Config.cwSize ≤ p) then
        { codeword := some c, errorsFound := pos.length, uncorrectable := true, syndromesZero := false }
      else
        match errorValues fp lam omg pos with
        | none =>
          { codeword := some c, errorsFound := pos.length, uncorrectable := true, syndromesZero := false }
        | some val =>
          { codeword := some (applyCorrections c pos val), errorsFound := pos.length, uncorrectable := false,
            syndromesZero := false }

end Sys2Proof.Machine
end

