-- ==== Sys2Proof/Machine/ReedSolomon.lean ====
section
/-! DEFINITION. The meanings of `RSENC`, `RSSYN` and `RSDEC`, each run through the workspace `W` whose elements it writes
before it reads them (spec/41_rs_encode.md R113, spec/42_rs_decode.md R123, R140, R145). -/

namespace Sys2Proof.Machine

/-- The encoder's shift register `PAR[0..2]` after the nine data bytes (R112). -/
def runEncoder (fp : BitVec 9) (data : List Byte) (w : Workspace) : Workspace :=
  let r := rsRemainder fp data
  { w with par := [r.p0, r.p1, r.p2] }

/-- The codeword: the data, then `PAR[2]`, `PAR[1]`, `PAR[0]` (R112). -/
def codewordFrom (data : List Byte) (w : Workspace) : List Byte :=
  data ++ [coeff w.par 2, coeff w.par 1, coeff w.par 0]

/-- `RSENC len` (R113). -/
def execRsenc (len : Byte) (s : State) : Host.Outcome State Fault Refusal :=
  commandFrame (fun s =>
    if len.toNat ≠ Config.dataSize then raiseError .invalidLength s
    else
      let data := inPrefix s Config.dataSize
      let w := runEncoder fieldPoly data s.work
      writeOut (codewordFrom data w) (setWork w s)) s

/-- `SYN = (S1, S2, S3, 0, 0, 0, 0)` for the bytes `c` (R121, R126). -/
def runSyndromes (fp : BitVec 9) (c : List Byte) (w : Workspace) : Workspace :=
  { w with syn := (rsSyndromes fp c).poly }

/-- The three syndromes in the workspace are zero (R123, R125). -/
def synAllZero (w : Workspace) : Bool := coeff w.syn 0 == 0 && coeff w.syn 1 == 0 && coeff w.syn 2 == 0

/-- `RSSYN len` (R123). -/
def execRssyn (len : Byte) (s : State) : Host.Outcome State Fault Refusal :=
  commandFrame (fun s =>
    if len.toNat ≠ Config.cwSize then raiseError .invalidLength s
    else
      let w := runSyndromes fieldPoly (inPrefix s Config.cwSize) s.work
      setSz (synAllZero w) (writeOut (w.syn.take 3) (setWork w s))) s

/-- Stage 0: the codeword is copied to `CW` (R124). -/
def loadCodeword (c : List Byte) (w : Workspace) : Workspace := { w with cw := c }

/-- Stage 3: the locator iteration leaves `LAM`, `AUX`, `L` and `K` (R126, R127), and in `NEW` the locator formed last. -/
def runLocator (fp : BitVec 9) (w : Workspace) : Workspace :=
  let st := locator fp w.syn
  { w with lam := st.lam, aux := st.aux, new := st.lam, ell := st.ell, kay := st.kay }

/-- Stage 4: `PROD` and `OMG` (R130). -/
def runEvaluator (fp : BitVec 9) (w : Workspace) : Workspace :=
  let w := runProduct fp w.lam w.syn w
  { w with omg := evaluatorOf w.prod }

/-- Stage 5: `POS` and `NROOTS` (R132). -/
def runChien (fp : BitVec 9) (w : Workspace) : Workspace :=
  { w with pos := chienSearch fp w.lam }

/-- Stages 1 to 5 on the codeword in `CW`, for syndromes that are not all zero (R121, R126 to R132). -/
def runStages (fp : BitVec 9) (w : Workspace) : Workspace :=
  runChien fp (runEvaluator fp (runLocator fp w))

/-- A result that returns the bytes now in `CW`: the received word, unless a correction was made (R139). -/
def codewordResult (w : Workspace) (n : Nat) (unc sz : Bool) : Workspace × DecodeResult :=
  (w, { codeword := some w.cw, errorsFound := n, uncorrectable := unc, syndromesZero := sz })

/-- Stages 6 to 9: selection by root count, the position test, the error values, the correction (R134 to R138). -/
def runSelection (fp : BitVec 9) (w : Workspace) : Workspace × DecodeResult :=
  let n := w.pos.length
  if n = 0 then codewordResult w 0 false false
  else if Config.checksumSize ≤ n then codewordResult w n true false
  else if w.pos.any (fun p => Config.cwSize ≤ p) then codewordResult w n true false
  else
    match errorValues fp w.lam w.omg w.pos with
    | none => codewordResult w n true false
    | some val =>
      let w := { w with val := val, cw := applyCorrections w.cw w.pos val }
      codewordResult w n false false

/-- `RSDecF` carried out in the workspace: the intermediates live in `W` and every `RSDEC` reuses them (R145). -/
def decodeInWork (fp : BitVec 9) (len : Nat) (c : List Byte) (w : Workspace) : Workspace × DecodeResult :=
  if len ≠ Config.cwSize then
    (w, { codeword := none, errorsFound := 0, uncorrectable := true, syndromesZero := false })
  else
    let w := loadCodeword c w
    let w := runSyndromes fp w.cw w
    if synAllZero w then codewordResult w 0 false true
    else runSelection fp (runStages fp w)

/-- `OUT[0..11] <- cw_out`, unless it is none (R140). -/
def writeCodeword (cw : Option (List Byte)) (s : State) : State :=
  match cw with
  | none => s
  | some c => writeOut c s

/-- `RSDEC len` (R140). `STATUS.ERR` stays 0 in every outcome. -/
def execRsdec (len : Byte) (s : State) : Host.Outcome State Fault Refusal :=
  commandFrame (fun s =>
    let r := decodeInWork fieldPoly len.toNat (inPrefix s Config.cwSize) s.work
    setDecodeFlags r.2.errorsFound r.2.uncorrectable r.2.syndromesZero
      (writeCodeword r.2.codeword (setWork r.1 s))) s

end Sys2Proof.Machine
end

