-- ==== Sys2Proof/Machine/Dispatch.lean ====
section
/-! DEFINITION. One arm per command, each one call of its meaning (spec/30_encoding.md R71). -/

namespace Sys2Proof.Machine

/-- The command a word decodes to, executed in the frame of R16. -/
def exec (i : Instr) (s : State) : Host.Outcome State Fault Refusal :=
  match i with
  | .gfmul a b => Sys2Proof.Machine.execGfmul a b s
  | .gfinv a => Sys2Proof.Machine.execGfinv a s
  | .pmul => Sys2Proof.Machine.execPmul s
  | .rsenc len => Sys2Proof.Machine.execRsenc len s
  | .rssyn len => Sys2Proof.Machine.execRssyn len s
  | .rsdec len => Sys2Proof.Machine.execRsdec len s
  | .crccomp len => Sys2Proof.Machine.execCrccomp len s
  | .crcvfy len => Sys2Proof.Machine.execCrcvfy len s

end Sys2Proof.Machine
end

