-- ==== Sys2Proof/Machine/Bus.lean ====
section
/-! DEFINITION. What one access at the register port does: a write to `CMD` runs its whole command, any other write or
read touches one register, and the reset event resets the block (spec/20_memory.md R40 to R44,
spec/70_reset_and_hazards.md R190). -/

namespace Sys2Proof.Machine

/-- `HostWrite(CMD, w)`: decode the word and execute it, or report why it is rejected (R14, R16, R70). -/
def runCommand (w : Word) (s : State) : Host.Outcome State Fault Refusal :=
  match decode w with
  | .ok i => exec i s
  | .error e => rejectCommand e s

/-- A write of data of the register's own width; of another width it is refused (R40, R43). -/
def writeReg (r : Reg) (v : BusData) (s : State) : Host.Outcome State Fault Refusal :=
  match r, v with
  | .cmd, .word w => runCommand w s
  | .status, .word _ => .next s
  | .ctrl, .word w => .next (writeCtrl w s)
  | .crcmask, .word w => .next (writeCrcmask w s)
  | .inReg i, .byte b => .next (writeIn i b s)
  | .outReg _, .byte _ => .next s
  | _, _ => .refused .accessWidth

/-- `HostWrite(reg, v)`; a reserved index is refused (R19, R40). -/
def hostWrite (index : BitVec 8) (v : BusData) (s : State) : Host.Outcome State Fault Refusal :=
  match regAt index with
  | none => .refused .reservedIndex
  | some r => writeReg r v s

/-- One access, or the reset event, performed whole (R44, R190). -/
def performAccess (a : Access) (s : State) : Host.Outcome State Fault Refusal :=
  match a with
  | .hostWrite index v => hostWrite index v s
  | .hostRead index width => hostRead index width s
  | .resetEvent inDraw outDraw workDraw => .next (resetBlock inDraw outDraw workDraw s)

/-- The oldest waiting access is performed; with none waiting the block is idle and holds its registers (R12, R48, R183). -/
def performNext (s : State) : Host.Outcome State Fault Refusal :=
  match s.pending with
  | [] => .next s
  | a :: rest => performAccess a { s with pending := rest }

/-- The access that runs a command word: a write to `CMD` (R14). -/
def commandAccess (w : Word) : Access := .hostWrite 0x00 (.word w)

/-- `s` with the write of command word `w` first at the register port. -/
def stageCommand (w : Word) (s : State) : State :=
  { s with pending := commandAccess w :: s.pending }

end Sys2Proof.Machine
end

