-- ==== Sys2Proof/Machine/Step.lean ====
section
/-! DEFINITION. One step of the machine: the oldest access waiting at the register port, performed whole
(spec/20_memory.md R42, R44, R48). -/

namespace Sys2Proof.Machine

/-- One step (R10, R48, log entry 1). -/
def step (s : State) : Host.Outcome State Fault Refusal := performNext s

/-- `s` with a host's write of the command word to `CMD` first at the register port, so that the next step runs it (R14,
log entry 1). -/
def State.withFetchWord (s : State) (nbits w : Nat) : State := stageCommand (tableWord nbits w) s

end Sys2Proof.Machine
end

