-- ==== Sys2Proof/Machine/Script.lean ====
section
/-! DEFINITION. The host script of spec/30_encoding.md R85: each line stands for a list of accesses at the register port. -/

namespace Sys2Proof.Machine

/-- A line of a host script (R85). -/
inductive ScriptLine where
  /-- `WR reg, v` -/
  | wr (reg : BitVec 8) (v : BusData)
  /-- `RD reg` -/
  | rd (reg : BitVec 8) (width : BusWidth)
  /-- a command by its mnemonic and operands -/
  | command (i : Instr)
  /-- the pseudo `RSENC`, which is `RSENC 9` -/
  | rsenc
  /-- the pseudo `RSSYN`, which is `RSSYN 12` -/
  | rssyn
  /-- the pseudo `RSDEC`, which is `RSDEC 12` -/
  | rsdec
  /-- `LDIN i, b0 b1 ... bn` -/
  | ldin (i : Nat) (bytes : List Byte)
  /-- `RDOUT i, n` -/
  | rdout (i n : Nat)
  /-- `SETMASK m` -/
  | setmask (m : Half)
  /-- `NOMASK` -/
  | nomask
  deriving DecidableEq, Repr

/-- The index of `CTRL` (R17). -/
def ctrlIndex : BitVec 8 := 0x02

/-- The index of `CRCMASK` (R18). -/
def crcmaskIndex : BitVec 8 := 0x03

/-- The index of `IN[i]` (R11). -/
def inIndex (i : Nat) : BitVec 8 := BitVec.ofNat 8 (0x40 + i)

/-- The index of `OUT[i]` (R11). -/
def outIndex (i : Nat) : BitVec 8 := BitVec.ofNat 8 (0x80 + i)

/-- The accesses a line stands for, in order (R85). -/
def expandLine : ScriptLine → List Access
  | .wr reg v => [.hostWrite reg v]
  | .rd reg width => [.hostRead reg width]
  | .command i => [commandAccess (encode i)]
  | .rsenc => [commandAccess (encode (.rsenc 9))]
  | .rssyn => [commandAccess (encode (.rssyn 12))]
  | .rsdec => [commandAccess (encode (.rsdec 12))]
  | .ldin i bytes => bytes.zipIdx.map fun p => .hostWrite (inIndex (i + p.2)) (.byte p.1)
  | .rdout i n => (List.range n).map fun k => .hostRead (outIndex (i + k)) .byte
  | .setmask m => [.hostWrite crcmaskIndex (.word (m.setWidth 32)), .hostWrite ctrlIndex (.word 1)]
  | .nomask => [.hostWrite ctrlIndex (.word 0)]

/-- A whole script (R85). -/
def expandScript (lines : List ScriptLine) : List Access := lines.flatMap expandLine

end Sys2Proof.Machine
end

