-- ==== Sys2Proof/WellFormed.lean ====
section
/-! DEFINITION. What is well formed: a command, a command word, an access at the register port, and the open parameters
(spec/30_encoding.md R64, R70, spec/20_memory.md R43, spec/10_state.md R19, spec/00_scope.md R7). -/

namespace Sys2Proof

/-- A command's word has no must-be-zero bit set (R71, R73). Operands have their fields' width, and every value 0..255 is
admitted (R64), so every command passes: `Laws.ReservedBitsClear` shows it per constructor. -/
def Instr.wellFormed (i : Instr) : Bool := encode i &&& i.opcode.mbz == 0

/-- The decoder accepts the word: a legal opcode and no reserved bit set (R70). -/
def wordWellFormed (w : Word) : Bool :=
  match decode w with
  | .ok _ => true
  | .error _ => false

/-- The access has a meaning: its index is not reserved and its width is the register's (R19, R43). The reset event always
has one (R190). -/
def accessWellFormed : Machine.Access → Bool
  | .hostWrite index v =>
    match Machine.regAt index with
    | none => false
    | some r => Machine.dataWidth v == Machine.regWidth r
  | .hostRead index width =>
    match Machine.regAt index with
    | none => false
    | some r => width == Machine.regWidth r
  | .resetEvent _ _ _ => true

/-- An admissible `FIELD_POLY` (R91). -/
def fieldPolyWellFormed (fp : BitVec 9) : Bool := Config.fieldPolys.contains fp

/-- An admissible `CRC_ALG`: `poly` has bit 0 set (R150). -/
def crcAlgWellFormed (alg : Config.CrcAlg) : Bool := alg.poly.getLsbD 0

/-- An admissible `IN_LEN`: 14 to 64 (R7). -/
def inLenWellFormed (n : Nat) : Bool := decide (14 ≤ n ∧ n ≤ 64)

end Sys2Proof
end

