-- ==== Sys2Proof/Safety.lean ====
section
/-! DEFINITION. The terms the claims are stated in: powers of `α` and the table-free product, a corrupted codeword, what a
command leaves as its effect, what a safe state is, and when two states look alike to every host. -/

namespace Sys2Proof.Safety

open Sys2Proof.Machine

/-- `α ⊗ x` without tables: shift left, and reduce by the field polynomial when bit 8 comes out (R101). -/
def xtime (fp : BitVec 9) (x : Byte) : Byte :=
  let y : BitVec 9 := x.setWidth 9 <<< 1
  (if y.getLsbD 8 then y ^^^ fp else y).setWidth 8

/-- `α^i`, by `i` doublings (R92). -/
def alphaPow (fp : BitVec 9) : Nat → Byte
  | 0 => 1
  | i + 1 => xtime fp (alphaPow fp i)

/-- The low `n` bits of `b` times `a`: the sum of `α^k ⊗ a` over the bits `k < n` set in `b`, by shift and reduce (R101). -/
def shiftMulBits (fp : BitVec 9) (b : Byte) : Nat → Nat → Byte → Byte
  | 0, _, _ => 0
  | n + 1, k, a => (if b.getLsbD k then a else 0) ^^^ shiftMulBits fp b n (k + 1) (xtime fp a)

/-- The carry-less product of `a` and `b` reduced modulo the field polynomial (R101). -/
def shiftMul (fp : BitVec 9) (a b : Byte) : Byte := shiftMulBits fp b 8 0 a

/-- The value at `x` of a polynomial given lowest degree first. -/
def evalPoly (fp : BitVec 9) : List Byte → Byte → Byte
  | [], _ => 0
  | c :: cs, x => c ^^^ gfMul fp x (evalPoly fp cs x)

/-- Byte-by-byte sum of two words of equal length. -/
def addBytes (c e : List Byte) : List Byte := List.zipWith (· ^^^ ·) c e

/-- `c` with the error value `e` added at byte index `p`. -/
def corrupt (c : List Byte) (p : Nat) (e : Byte) : List Byte := c.set p (coeff c p ^^^ e)

/-- `bs` with bit `k` (0 the least significant) of byte `j` inverted. -/
def flipBit (bs : List Byte) (j k : Nat) : List Byte := corrupt bs j (1 <<< k)

/-- The flags after a command that reports no result flag: `VALID` alone. -/
def doneStatus : Status := { Status.zero with valid := true }

/-- The flags after an error: `VALID` and the code (R171). -/
def errorStatus (e : ErrCode) : Status := { Status.zero with valid := true, err := e }

/-- From `s` to `t`: `OUT` holds `bs` from index 0 on and its old bytes beyond, `STATUS` is `st`, and `IN`, `CTRL`,
`CRCMASK`, the waiting accesses and the hosts' answers are as before. Nothing is said of the hidden workspace. -/
def CommandEffect (s t : State) (bs : List Byte) (st : Status) : Prop :=
  (∀ k : Fin Config.outLen, t.outBuf[k] = bs.getD k s.outBuf[k]) ∧ t.status = st ∧
  t.inBuf = s.inBuf ∧ t.masken = s.masken ∧ t.mask = s.mask ∧ t.pending = s.pending ∧ t.replies = s.replies

/-- What an error does to a state, exactly and only (R171). -/
def afterError (e : ErrCode) (s : State) : State := { s with status := errorStatus e }

/-- How many `OUT` bytes, from `OUT[0]` on, a command names (R75). -/
def outNamed : Instr → Nat
  | .gfmul _ _ => 1
  | .gfinv _ => 1
  | .pmul => 13
  | .rsenc _ => 12
  | .rssyn _ => 3
  | .rsdec len => if len = 12 then 12 else 0
  | .crccomp _ => 2
  | .crcvfy _ => 2

/-- How many `IN` bytes, from `IN[0]` on, a command reads (R75). -/
def inNamed : Instr → Nat
  | .gfmul _ _ => 0
  | .gfinv _ => 0
  | .pmul => 14
  | .rsenc len => if len = 9 then 9 else 0
  | .rssyn len => if len = 12 then 12 else 0
  | .rsdec len => if len = 12 then 12 else 0
  | .crccomp len => if len.toNat ≤ Config.inLen then len.toNat else 0
  | .crcvfy len => if 2 ≤ len.toNat ∧ len.toNat ≤ Config.inLen then len.toNat else 0

/-- The command is `CRCVFY`, the only one that reads `CTRL` and `CRCMASK` (R17, R18). -/
def readsMask : Instr → Bool
  | .crcvfy _ => true
  | _ => false

/-- The error code a command reports, as a function of the command alone (R170). -/
def errorOf : Instr → ErrCode
  | .gfmul _ _ => .none
  | .gfinv a => if a = 0 then .invZero else .none
  | .pmul => .none
  | .rsenc len => if len = 9 then .none else .invalidLength
  | .rssyn len => if len = 12 then .none else .invalidLength
  | .rsdec _ => .none
  | .crccomp len => if len.toNat ≤ Config.inLen then .none else .invalidLength
  | .crcvfy len => if 2 ≤ len.toNat ∧ len.toNat ≤ Config.inLen then .none else .invalidLength

/-- The fields of `STATUS` fit together: before the first command all are zero (R15); after an error only the code is set
(R171); a clean word is neither uncorrectable nor has errors (R139); `CRCOK` stands alone (R13). -/
def statusCoherent (st : Status) : Prop :=
  (st.valid = false → st = Status.zero) ∧
  (st.err ≠ .none → st.sz = false ∧ st.unc = false ∧ st.crcok = false ∧ st.errcnt = 0) ∧
  (st.sz = true → st.unc = false ∧ st.errcnt = 0) ∧
  (st.crcok = true → st.sz = false ∧ st.unc = false ∧ st.errcnt = 0)

/-- The workspace arrays have the sizes R25 gives them, and its integers their ranges; `NROOTS` is bounded elsewhere. -/
def workShape (w : Workspace) : Prop :=
  w.syn.length = 7 ∧ w.lam.length = 7 ∧ w.aux.length = 7 ∧ w.new.length = 7 ∧ w.prod.length = 13 ∧
  w.omg.length = 3 ∧ w.cw.length = 12 ∧ w.par.length = 3 ∧ (∀ p ∈ w.pos, p ≤ 254) ∧
  w.val.length ≤ 3 ∧ w.ell ≤ 3 ∧ -1 ≤ w.kay ∧ w.kay ≤ 2

/-- A waiting reset event draws a workspace of the right shape. -/
def accessShape : Access → Prop
  | .resetEvent _ _ workDraw => workShape workDraw
  | _ => True

/-- The invariant of the machine. -/
def StateInv (s : State) : Prop :=
  statusCoherent s.status ∧ workShape s.work ∧ ∀ a ∈ s.pending, accessShape a

/-- Two states that differ in the hidden workspace at most: no host can tell them apart by any read (R25). -/
def SameButWork (s t : State) : Prop := { s with work := t.work } = t

/-- Two outcomes of one kind whose states differ in the hidden workspace at most. -/
def OutcomeSameButWork : Host.Outcome State Fault Refusal → Host.Outcome State Fault Refusal → Prop
  | .next s, .next t => SameButWork s t
  | .fault f, .fault g => f = g
  | .refused r, .refused q => r = q
  | _, _ => False

/-- The access is a write to `CMD`. -/
def isCommand : Access → Bool
  | .hostWrite index _ => index == 0x00
  | _ => false

/-- The access is the reset event. -/
def isReset : Access → Bool
  | .resetEvent _ _ _ => true
  | _ => false

end Sys2Proof.Safety
end

