-- ==== Sys2Proof/Certificates/Slice0/Obligations.lean ====
section
/-! DEFINITION. The statements for the provers. Each docstring names the rule of spec/ it formalises; where a statement rests
on a choice of the model it says so and names the log entry. `fp` runs over every admissible field polynomial and `alg` over
CRC records, so the engine statements hold for every reading of the open parameters. -/

open Sys2Proof Sys2Proof.Machine Sys2Proof.Safety

/-! ### Command words -/

/-- A word decodes to a command exactly when it is the word the encoder writes for it: no bit of a word is dropped, and no
two words mean one command (R60, R64, R71, R73). -/
def Obligations.DecodeAcceptsExactlyEncodedWords : Prop :=
  ∀ (w : Word) (i : Instr), decode w = .ok i ↔ w = encode i

/-- The opcode map row by row, with each format's fields and must-be-zero mask (R71), the operands taken as they stand
(R64). -/
def Obligations.OpcodeMapDecodesEveryWord : Prop :=
  ∀ w : Word,
    (w.extractLsb' 0 8 = 0x01 → decode w = if w &&& 0xFF000000 = 0 then .ok (.gfmul (w.extractLsb' 8 8) (w.extractLsb' 16 8))
      else .error .reservedNonzero) ∧
    (w.extractLsb' 0 8 = 0x02 → decode w = if w &&& 0xFFFF0000 = 0 then .ok (.gfinv (w.extractLsb' 8 8))
      else .error .reservedNonzero) ∧
    (w.extractLsb' 0 8 = 0x03 → decode w = if w &&& 0xFFFFFF00 = 0 then .ok .pmul else .error .reservedNonzero) ∧
    (w.extractLsb' 0 8 = 0x10 → decode w = if w &&& 0xFFFF0000 = 0 then .ok (.rsenc (w.extractLsb' 8 8))
      else .error .reservedNonzero) ∧
    (w.extractLsb' 0 8 = 0x11 → decode w = if w &&& 0xFFFF0000 = 0 then .ok (.rssyn (w.extractLsb' 8 8))
      else .error .reservedNonzero) ∧
    (w.extractLsb' 0 8 = 0x12 → decode w = if w &&& 0xFFFF0000 = 0 then .ok (.rsdec (w.extractLsb' 8 8))
      else .error .reservedNonzero) ∧
    (w.extractLsb' 0 8 = 0x20 → decode w = if w &&& 0xFFFF0000 = 0 then .ok (.crccomp (w.extractLsb' 8 8))
      else .error .reservedNonzero) ∧
    (w.extractLsb' 0 8 = 0x21 → decode w = if w &&& 0xFFFF0000 = 0 then .ok (.crcvfy (w.extractLsb' 8 8))
      else .error .reservedNonzero) ∧
    (w.extractLsb' 0 8 ∉ ([0x01, 0x02, 0x03, 0x10, 0x11, 0x12, 0x20, 0x21] : List Byte) → decode w = .error .illegalOpcode)

/-- Words written out in the spec decode to the commands it names (30_encoding.md R85, 95_test_vectors.md sections 2 to 6). -/
def Obligations.SpecWordsDecode : Prop :=
  decode 0x00800201 = .ok (.gfmul 0x02 0x80) ∧ decode 0x00000202 = .ok (.gfinv 0x02) ∧ decode 0x00000003 = .ok .pmul ∧
  decode 0x00000910 = .ok (.rsenc 9) ∧ decode 0x00000C11 = .ok (.rssyn 12) ∧ decode 0x00000C12 = .ok (.rsdec 12) ∧
  decode 0x00000A20 = .ok (.crccomp 10) ∧ decode 0x00000C21 = .ok (.crcvfy 12)

/-- A word with an illegal opcode, or with a legal opcode and a reserved bit set, reports its error and has no other effect
(R72, R73). -/
def Obligations.RejectedWordReportsItsErrorAlone : Prop :=
  ∀ (s : State) (w : Word),
    (w.extractLsb' 0 8 ∉ ([0x01, 0x02, 0x03, 0x10, 0x11, 0x12, 0x20, 0x21] : List Byte) →
      performAccess (.hostWrite 0x00 (.word w)) s = .next (afterError .illegalOpcode s)) ∧
    (∀ op : Opcode, w.extractLsb' 0 8 = op.byte → w &&& op.mbz ≠ 0 →
      performAccess (.hostWrite 0x00 (.word w)) s = .next (afterError .reservedNonzero s))

/-- One command reports at most one code, in the order illegal opcode, reserved bits, the command's own check (R173). -/
def Obligations.CommandErrorPriority : Prop :=
  (∀ (s : State) (w : Word), ∃ t, performAccess (.hostWrite 0x00 (.word w)) s = .next t ∧
    (w.extractLsb' 0 8 ∉ ([0x01, 0x02, 0x03, 0x10, 0x11, 0x12, 0x20, 0x21] : List Byte) →
      t.status.err = .illegalOpcode) ∧
    (∀ op : Opcode, w.extractLsb' 0 8 = op.byte → w &&& op.mbz ≠ 0 → t.status.err = .reservedNonzero) ∧
    (∀ i : Instr, w = encode i → t.status.err = errorOf i)) ∧
  decode 0xFF000013 = .error .illegalOpcode ∧ decode 0x00010510 = .error .reservedNonzero ∧
  decode 0x00010002 = .error .reservedNonzero

/-- Which command raises which code, and that nothing else raises one; `RSDEC` of a wrong length is `UNC = 1` with no error;
the 4-bit values of the codes (R170). -/
def Obligations.ErrorCodesByCommand : Prop :=
  (∀ (i : Instr) (s : State), ∃ t, exec i s = .next t ∧ t.status.err = errorOf i) ∧
  (∀ (len : Byte) (s : State), len ≠ 12 → ∃ t, exec (.rsdec len) s = .next t ∧ t.status.unc = true ∧ t.status.err = .none) ∧
  (∀ (s : State) (w : Word) (e : DecodeError), decode w = .error e →
    ∃ t, performAccess (.hostWrite 0x00 (.word w)) s = .next t ∧
      t.status.err = (match e with | .illegalOpcode => .illegalOpcode | .reservedNonzero => .reservedNonzero)) ∧
  (∀ st : Status, (statusWord st).extractLsb' 8 4 =
    (match st.err with | .none => 0 | .illegalOpcode => 1 | .reservedNonzero => 2 | .invalidLength => 3 | .invZero => 4))

/-- What an error does, exactly and only: the code, `VALID`, the result flags at 0, and nothing else in the machine; and the
next command is not affected by it (R171). -/
def Obligations.ErrorLeavesOnlyItsCode : Prop :=
  ∀ (s t : State) (w : Word), performAccess (.hostWrite 0x00 (.word w)) s = .next t → t.status.err ≠ .none →
    t = afterError t.status.err s ∧ ∀ i : Instr, exec i t = exec i s

/-! ### The register port -/

/-- A step performs the oldest waiting access on the state with that access taken away. When that access writes a word to
`CMD` and the word decodes to a command, the step is `exec` of that command there; when the word decodes to none, the step
reports its error (R14, R42, R48). The list of waiting accesses is the model's own (log entry 1). -/
def Obligations.StepRunsTheDecodedCommand : Prop :=
  ∀ (s : State) (rest : List Access),
    (∀ a : Access, s.pending = a :: rest → step s = performAccess a { s with pending := rest }) ∧
    (∀ (w : Word) (i : Instr), s.pending = .hostWrite 0x00 (.word w) :: rest → decode w = .ok i →
      step s = exec i { s with pending := rest }) ∧
    (∀ (w : Word), s.pending = .hostWrite 0x00 (.word w) :: rest → decode w = .error .illegalOpcode →
      step s = .next (afterError .illegalOpcode { s with pending := rest })) ∧
    (∀ (w : Word), s.pending = .hostWrite 0x00 (.word w) :: rest → decode w = .error .reservedNonzero →
      step s = .next (afterError .reservedNonzero { s with pending := rest }))

/-- With no access waiting a step leaves the state as it is. The MODEL's choice (log entry 1); the block is then idle and
holds its registers (10_state.md section 4, 60_exceptions.md section 7). -/
def Obligations.IdleBlockHoldsItsState : Prop :=
  ∀ s : State, s.pending = [] → step s = .next s

/-- `HostWrite(reg, v)` register by register (R40). -/
def Obligations.HostWriteEffects : Prop :=
  ∀ s : State,
    (∀ (v : Word) (i : Instr), decode v = .ok i → performAccess (.hostWrite 0x00 (.word v)) s = exec i s) ∧
    (∀ (v : Word) (e : DecodeError), decode v = .error e →
      performAccess (.hostWrite 0x00 (.word v)) s = .next (afterError (decodeErrCode e) s)) ∧
    (∀ v : Word, performAccess (.hostWrite 0x02 (.word v)) s = .next { s with masken := v.getLsbD 0 }) ∧
    (∀ v : Word, performAccess (.hostWrite 0x03 (.word v)) s = .next { s with mask := v.extractLsb' 0 16 }) ∧
    (∀ (i : Fin Config.inLen) (b : Byte),
      performAccess (.hostWrite (BitVec.ofNat 8 (0x40 + i.val)) (.byte b)) s = .next { s with inBuf := s.inBuf.set i b }) ∧
    (∀ v : Word, performAccess (.hostWrite 0x01 (.word v)) s = .next s) ∧
    (∀ (i : Fin Config.outLen) (b : Byte),
      performAccess (.hostWrite (BitVec.ofNat 8 (0x80 + i.val)) (.byte b)) s = .next s) ∧
    (∀ (index : BitVec 8) (v : BusData), (4 ≤ index.toNat ∧ index.toNat < 0x40) ∨
        (0x40 + Config.inLen ≤ index.toNat ∧ index.toNat < 0x80) ∨ 0x8D ≤ index.toNat →
      performAccess (.hostWrite index v) s = .refused .reservedIndex)

/-- `HostRead(reg)` register by register: the value goes to the host, nothing else changes, and two reads with no write
between return the same value (20_memory.md R41). The list of answers is the model's own (log entry 2). -/
def Obligations.HostReadEffects : Prop :=
  (∀ s : State,
    let answers := fun (index : BitVec 8) (width : BusWidth) (d : BusData) =>
      performAccess (.hostRead index width) s = .next { s with replies := { reg := index, data := d } :: s.replies }
    answers 0x00 .word (.word 0) ∧ answers 0x01 .word (.word (statusWord s.status)) ∧
    answers 0x02 .word (.word (if s.masken then 1 else 0)) ∧ answers 0x03 .word (.word (s.mask.setWidth 32)) ∧
    (∀ i : Fin Config.inLen, answers (BitVec.ofNat 8 (0x40 + i.val)) .byte (.byte s.inBuf[i])) ∧
    (∀ i : Fin Config.outLen, answers (BitVec.ofNat 8 (0x80 + i.val)) .byte (.byte s.outBuf[i])) ∧
    (∀ (index : BitVec 8) (width : BusWidth), (4 ≤ index.toNat ∧ index.toNat < 0x40) ∨
        (0x40 + Config.inLen ≤ index.toNat ∧ index.toNat < 0x80) ∨ 0x8D ≤ index.toNat →
      performAccess (.hostRead index width) s = .refused .reservedIndex)) ∧
  (∀ (s t : State) (index : BitVec 8) (width : BusWidth), performAccess (.hostRead index width) s = .next t →
    ∃ d u, performAccess (.hostRead index width) t = .next u ∧
      u.replies = { reg := index, data := d } :: { reg := index, data := d } :: s.replies)

/-- The bits of the word `STATUS` reads as, which commands set which field, and `VALID` from reset to the first command; a
write to `STATUS` is ignored and a read of it clears nothing (R15). -/
def Obligations.StatusFieldsAndWhoSetsThem : Prop :=
  (∀ st : Status, let w := statusWord st
    w.getLsbD 0 = st.valid ∧ w.getLsbD 1 = st.sz ∧ w.getLsbD 2 = st.unc ∧ w.getLsbD 3 = st.crcok ∧
    w.extractLsb' 4 4 = st.errcnt ∧ w.extractLsb' 8 4 = errCode st.err ∧ w.extractLsb' 12 20 = 0) ∧
  (∀ (i : Instr) (s t : State), exec i s = .next t → t.status.valid = true ∧
    (t.status.sz = true → (∃ len, i = .rssyn len) ∨ ∃ len, i = .rsdec len) ∧
    (t.status.unc = true → ∃ len, i = .rsdec len) ∧
    (t.status.crcok = true → ∃ len, i = .crcvfy len) ∧
    (t.status.errcnt ≠ 0 → ∃ len, i = .rsdec len) ∧ t.status.errcnt.toNat ≤ 3) ∧
  State.reset.status.valid = false ∧
  (∀ (s : State) (w : Word), ∃ t, performAccess (.hostWrite 0x00 (.word w)) s = .next t ∧ t.status.valid = true) ∧
  (∀ (a : Access) (s t : State), performAccess a s = .next t → isCommand a = false → isReset a = false →
    t.status = s.status) ∧
  (∀ (s : State) (v : Word), performAccess (.hostWrite 0x01 (.word v)) s = .next s) ∧
  (∀ s : State, ∃ t, performAccess (.hostRead 0x01 .word) s = .next t ∧ t.status = s.status ∧ t.outBuf = s.outBuf)

/-- A host access to a reserved index has no meaning: it is refused (R19). -/
def Obligations.ReservedIndexIsRefused : Prop :=
  ∀ (s : State) (index : BitVec 8),
    (0x04 ≤ index.toNat ∧ index.toNat ≤ 0x3F) ∨ (0x40 + Config.inLen ≤ index.toNat ∧ index.toNat ≤ 0x7F) ∨
      (0x8D ≤ index.toNat ∧ index.toNat ≤ 0xFF) →
    (∀ v, performAccess (.hostWrite index v) s = .refused .reservedIndex) ∧
    (∀ width, performAccess (.hostRead index width) s = .refused .reservedIndex)

/-- The machine never faults, and a step answers a next state exactly when no access waits or the oldest one is well formed:
ill-formed accesses are the only refusals (R19, R43, R175; the refusals are log entry 9, the idle step log entry 1). -/
def Obligations.StepRefusesOnlyIllFormedAccesses : Prop :=
  ∀ s : State,
    ((∃ t, step s = .next t) ↔ (s.pending = [] ∨ ∃ a rest, s.pending = a :: rest ∧ accessWellFormed a = true)) ∧
    (∀ r, step s = .refused r → r = .reservedIndex ∨ r = .accessWidth) ∧ (∀ f, step s ≠ .fault f)

/-- A read returns the value the latest write left: after a write to `IN[i]`, a read of `IN[j]` returns the byte written if
`j = i` and the old byte if not; a command between them changes no `IN` byte (R48, R11). -/
def Obligations.ReadReturnsTheLatestWrite : Prop :=
  ∀ (s t u v : State) (i j : Fin Config.inLen) (b : Byte) (w : Word) (rest : List Access),
    s.pending = .hostWrite (BitVec.ofNat 8 (0x40 + i.val)) (.byte b) :: .hostWrite 0x00 (.word w) ::
      .hostRead (BitVec.ofNat 8 (0x40 + j.val)) .byte :: rest →
    step s = .next t → step t = .next u → step u = .next v →
    v.replies = { reg := BitVec.ofNat 8 (0x40 + j.val), data := .byte (if j = i then b else s.inBuf[j]) } :: s.replies

/-- After reset `STATUS`, `CTRL` and `CRCMASK` read zero: in `State.reset`, and after the reset event whatever bytes `IN`,
`OUT` and `W` happen to hold then (R30). -/
def Obligations.ResetLeavesControlRegistersZero : Prop :=
  (statusWord State.reset.status = 0 ∧ ctrlWord State.reset.masken = 0 ∧ crcmaskWord State.reset.mask = 0) ∧
  (∀ (s : State) (x : Vector Byte Config.inLen) (y : Vector Byte Config.outLen) (w : Workspace),
    ∃ t, performAccess (.resetEvent x y w) s = .next t ∧
      statusWord t.status = 0 ∧ ctrlWord t.masken = 0 ∧ crcmaskWord t.mask = 0)

/-- After the reset event `IN` and `OUT` may hold any bytes: for every choice of them there is an event that leaves exactly
those, and what waits at the port stays (10_state.md section 10). That the event carries the bytes is the MODEL's form of a
free draw (log entry 4). -/
def Obligations.ResetEventLeavesInAndOutFree : Prop :=
  ∀ (s : State) (x : Vector Byte Config.inLen) (y : Vector Byte Config.outLen), ∃ a t, isReset a = true ∧
    performAccess a s = .next t ∧ t.inBuf = x ∧ t.outBuf = y ∧ t.pending = s.pending ∧ t.replies = s.replies

/-- `VALID`, once set, stays set until a reset (R15, R190). -/
def Obligations.ValidStaysSetUntilReset : Prop :=
  ∀ s t : State, step s = .next t → s.status.valid = true →
    t.status.valid = true ∨ ∃ a rest, s.pending = a :: rest ∧ isReset a = true

/-- Only a write to `CMD` and the reset event change `OUT`, `STATUS` or the workspace; only a write to `IN[i]` and the reset
event change `IN`; only host writes to them and the reset event change `CTRL` and `CRCMASK` (R10, R11, R44). -/
def Obligations.OnlyCommandsAndResetWriteResults : Prop :=
  ∀ (s t : State) (a : Access) (rest : List Access), s.pending = a :: rest → step s = .next t → isReset a = false →
    (isCommand a = false → t.outBuf = s.outBuf ∧ t.status = s.status ∧ t.work = s.work) ∧
    (isCommand a = true → t.inBuf = s.inBuf ∧ t.masken = s.masken ∧ t.mask = s.mask) ∧
    (∀ index width, a = .hostRead index width → t.inBuf = s.inBuf ∧ t.masken = s.masken ∧ t.mask = s.mask) ∧
    (∀ index v, a = .hostWrite index v →
      (index.toNat < 0x40 ∨ 0x40 + Config.inLen ≤ index.toNat → t.inBuf = s.inBuf) ∧
      (index ≠ 0x02 → t.masken = s.masken) ∧ (index ≠ 0x03 → t.mask = s.mask)) ∧
    t.pending = rest

/-- Every state accepts every command word: the command completes, sets `VALID`, and leaves `IN`, `CTRL` and `CRCMASK`; no
error or sequence of errors halts the block (20_memory.md R42, 60_exceptions.md R175). -/
def Obligations.EveryCommandWordCompletes : Prop :=
  ∀ (s : State) (w : Word), ∃ t, performAccess (.hostWrite 0x00 (.word w)) s = .next t ∧
    t.status.valid = true ∧ t.masken = s.masken ∧ t.mask = s.mask ∧ t.inBuf = s.inBuf ∧
    t.pending = s.pending ∧ t.replies = s.replies

/-! ### What a command reads and writes -/

/-- The frame of every command: `IN`, `CTRL`, `CRCMASK`, the waiting accesses and the answers are unchanged, and so is every
`OUT` byte the command does not name (R11, R75). That `GFMUL` and `GFINV` leave the workspace as it was is the MODEL's choice
(log entry 8): R25 leaves its content open. -/
def Obligations.CommandWritesOnlyWhatItNames : Prop :=
  ∀ (i : Instr) (s : State), ∃ t, exec i s = .next t ∧
    t.inBuf = s.inBuf ∧ t.masken = s.masken ∧ t.mask = s.mask ∧ t.pending = s.pending ∧ t.replies = s.replies ∧
    (∀ k : Fin Config.outLen, outNamed i ≤ k → t.outBuf[k] = s.outBuf[k]) ∧
    (t.status.err ≠ .none → t.outBuf = s.outBuf) ∧
    ((∃ a b, i = .gfmul a b) ∨ (∃ a, i = .gfinv a) → t.work = s.work)

/-- A command reads no `IN` byte but those it names, and only `CRCVFY` reads `CTRL` and `CRCMASK`: two states that agree on
them get the same flags and, where the command ends without an error, the same named `OUT` bytes (R13, R17, R18, R75). -/
def Obligations.CommandReadsOnlyWhatItNames : Prop :=
  ∀ (i : Instr) (s s' t t' : State), exec i s = .next t → exec i s' = .next t' →
    (∀ k : Fin Config.inLen, k < inNamed i → s.inBuf[k] = s'.inBuf[k]) →
    (readsMask i = true → s.masken = s'.masken ∧ s.mask = s'.mask) →
    t.status = t'.status ∧
    (t.status.err = .none → ∀ k : Fin Config.outLen, k < outNamed i → t.outBuf[k] = t'.outBuf[k])

/-- No command's result depends on the value of any flag before it (R13). -/
def Obligations.PastFlagsNeverMatter : Prop :=
  ∀ (i : Instr) (s : State) (st : Status), exec i { s with status := st } = exec i s

/-- The same command issued twice with the same `IN`, `CTRL` and `CRCMASK` gives the same `OUT` and `STATUS` both times
(R44). -/
def Obligations.RepeatedCommandGivesTheSameResult : Prop :=
  ∀ (i : Instr) (s : State), ∃ t u, exec i s = .next t ∧ exec i t = .next u ∧ u.outBuf = t.outBuf ∧ u.status = t.status

/-- The hidden workspace never shows: two machines that differ in what `W` held take the same steps, refuse the same
accesses, and differ in `W` at most, for ever (R25). This makes the model's choice of what `W` holds between commands (log
entry 8) harmless. -/
def Obligations.WorkspaceNeverShows : Prop :=
  ∀ (n : Nat) (s t : State), SameButWork s t → OutcomeSameButWork (Sys2Proof.core.run n s) (Sys2Proof.core.run n t)

/-- The decoder run in the workspace returns what `RSDecF` returns, whatever the workspace held: the workspace variant and
the allocate-fresh variant agree (R145). -/
def Obligations.WorkspaceDecodeIsPure : Prop :=
  ∀ (fp : BitVec 9) (len : Nat) (c : List Byte) (w : Workspace), (decodeInWork fp len c w).2 = rsDecode fp len c

/-! ### Invariants -/

/-- The invariant holds right after reset. It speaks of the workspace too, whose reset contents are the model's choice (log
entry 3). -/
def Obligations.StateInvHoldsAtReset : Prop := StateInv State.reset

/-- Every step keeps the invariant: the flags fit together (R13, R15, R139, R171) and the workspace keeps the sizes and
ranges of R25. -/
def Obligations.StepKeepsStateInv : Prop :=
  ∀ s t : State, StateInv s → step s = .next t → StateInv t

/-- `ERRCNT` never exceeds 3: the decoder never finds more than three roots (R15, R132). -/
def Obligations.ErrcntNeverExceedsThree : Prop :=
  ∀ s t : State, s.status.errcnt.toNat ≤ 3 → step s = .next t → t.status.errcnt.toNat ≤ 3

/-! ### The Galois field engine -/

/-- The tables for every admissible field polynomial: `EXP[i] = α^i`, `EXP[255] = EXP[0] = 1`, and `LOG`, not defined at 0, is
the inverse of `EXP` on 0..254 (R92). -/
def Obligations.ExpAndLogAreInverse : Prop :=
  ∀ fp ∈ Config.fieldPolys,
    (∀ i ≤ 255, gfExp fp i = alphaPow fp i) ∧ gfExp fp 255 = gfExp fp 0 ∧ gfExp fp 0 = 1 ∧
    (∀ i ≤ 254, gfLog fp (gfExp fp i) = some i) ∧ gfLog fp 0 = none ∧
    (∀ a : Byte, a ≠ 0 → ∃ i ≤ 254, gfLog fp a = some i ∧ gfExp fp i = a)

/-- The table product is the carry-less product reduced modulo the field polynomial, for every admissible one (40_gf_engine.md
R90, R101). -/
def Obligations.ProductIsShiftAndReduce : Prop :=
  ∀ fp ∈ Config.fieldPolys, ∀ a b : Byte, gfMul fp a b = shiftMul fp a b

/-- The laws of GF(256) for every admissible field polynomial, the bijection of squaring, which nonzero bytes are
cubes, and that each of those is the cube of exactly three bytes (R101). -/
def Obligations.FieldLaws : Prop :=
  ∀ fp ∈ Config.fieldPolys,
    (∀ a b : Byte, gfMul fp a b = gfMul fp b a) ∧
    (∀ a b c : Byte, gfMul fp (gfMul fp a b) c = gfMul fp a (gfMul fp b c)) ∧
    (∀ a : Byte, gfMul fp a 1 = a ∧ gfMul fp a 0 = 0) ∧
    (∀ a b c : Byte, gfMul fp a (b ^^^ c) = gfMul fp a b ^^^ gfMul fp a c) ∧
    (∀ a b : Byte, gfMul fp a b = 0 → a = 0 ∨ b = 0) ∧
    (∀ a : Byte, a ≠ 0 → ∃ v, gfInv fp a = some v ∧ gfMul fp a v = 1 ∧ gfInv fp v = some a) ∧
    gfInv fp 1 = some 1 ∧
    (∀ a b : Byte, gfMul fp a a = gfMul fp b b → a = b) ∧
    (∀ b : Byte, b ≠ 0 →
      ((∃ a, gfMul fp a (gfMul fp a a) = b) ↔ ∃ l, gfLog fp b = some l ∧ l % 3 = 0)) ∧
    (∀ (b : Byte) (l : Nat), gfLog fp b = some l → l % 3 = 0 →
      (((List.range 256).map (BitVec.ofNat 8)).filter fun a => gfMul fp a (gfMul fp a a) == b).length = 3)

/-- Coefficient `k` of the product is the sum of `p1[i] ⊗ p2[j]` over all `i`, `j` in 0..6 with `i + j = k`, and there are 13
of them (R99). -/
def Obligations.ProductCoefficientsAreConvolution : Prop :=
  ∀ (fp : BitVec 9) (p1 p2 : List Byte), (polyMul fp p1 p2).length = 13 ∧
    ∀ k < 13, coeff (polyMul fp p1 p2) k =
      xorSum ((((List.range 7).product (List.range 7)).filter fun ij => ij.1 + ij.2 = k).map fun ij =>
        gfMul fp (coeff p1 ij.1) (coeff p2 ij.2))

/-- The product of two polynomials has at every point the product of their values: nothing is truncated and nothing is
reduced (R99, R101). -/
def Obligations.PolynomialProductEvaluates : Prop :=
  ∀ fp ∈ Config.fieldPolys, ∀ (p1 p2 : List Byte) (x : Byte), p1.length = 7 → p2.length = 7 →
    evalPoly fp (polyMul fp p1 p2) x = gfMul fp (evalPoly fp p1 x) (evalPoly fp p2 x)

/-- The two ROMs for 0x11D, as the spec lists them row by row (R93, R94). -/
def Obligations.RomsMatchTheListedTables : Prop :=
  (List.range 256).map (gfExp 0x11D) =
    ([0x01, 0x02, 0x04, 0x08, 0x10, 0x20, 0x40, 0x80, 0x1D, 0x3A, 0x74, 0xE8, 0xCD, 0x87, 0x13, 0x26] ++
     [0x4C, 0x98, 0x2D, 0x5A, 0xB4, 0x75, 0xEA, 0xC9, 0x8F, 0x03, 0x06, 0x0C, 0x18, 0x30, 0x60, 0xC0] ++
     [0x9D, 0x27, 0x4E, 0x9C, 0x25, 0x4A, 0x94, 0x35, 0x6A, 0xD4, 0xB5, 0x77, 0xEE, 0xC1, 0x9F, 0x23] ++
     [0x46, 0x8C, 0x05, 0x0A, 0x14, 0x28, 0x50, 0xA0, 0x5D, 0xBA, 0x69, 0xD2, 0xB9, 0x6F, 0xDE, 0xA1] ++
     [0x5F, 0xBE, 0x61, 0xC2, 0x99, 0x2F, 0x5E, 0xBC, 0x65, 0xCA, 0x89, 0x0F, 0x1E, 0x3C, 0x78, 0xF0] ++
     [0xFD, 0xE7, 0xD3, 0xBB, 0x6B, 0xD6, 0xB1, 0x7F, 0xFE, 0xE1, 0xDF, 0xA3, 0x5B, 0xB6, 0x71, 0xE2] ++
     [0xD9, 0xAF, 0x43, 0x86, 0x11, 0x22, 0x44, 0x88, 0x0D, 0x1A, 0x34, 0x68, 0xD0, 0xBD, 0x67, 0xCE] ++
     [0x81, 0x1F, 0x3E, 0x7C, 0xF8, 0xED, 0xC7, 0x93, 0x3B, 0x76, 0xEC, 0xC5, 0x97, 0x33, 0x66, 0xCC] ++
     [0x85, 0x17, 0x2E, 0x5C, 0xB8, 0x6D, 0xDA, 0xA9, 0x4F, 0x9E, 0x21, 0x42, 0x84, 0x15, 0x2A, 0x54] ++
     [0xA8, 0x4D, 0x9A, 0x29, 0x52, 0xA4, 0x55, 0xAA, 0x49, 0x92, 0x39, 0x72, 0xE4, 0xD5, 0xB7, 0x73] ++
     [0xE6, 0xD1, 0xBF, 0x63, 0xC6, 0x91, 0x3F, 0x7E, 0xFC, 0xE5, 0xD7, 0xB3, 0x7B, 0xF6, 0xF1, 0xFF] ++
     [0xE3, 0xDB, 0xAB, 0x4B, 0x96, 0x31, 0x62, 0xC4, 0x95, 0x37, 0x6E, 0xDC, 0xA5, 0x57, 0xAE, 0x41] ++
     [0x82, 0x19, 0x32, 0x64, 0xC8, 0x8D, 0x07, 0x0E, 0x1C, 0x38, 0x70, 0xE0, 0xDD, 0xA7, 0x53, 0xA6] ++
     [0x51, 0xA2, 0x59, 0xB2, 0x79, 0xF2, 0xF9, 0xEF, 0xC3, 0x9B, 0x2B, 0x56, 0xAC, 0x45, 0x8A, 0x09] ++
     [0x12, 0x24, 0x48, 0x90, 0x3D, 0x7A, 0xF4, 0xF5, 0xF7, 0xF3, 0xFB, 0xEB, 0xCB, 0x8B, 0x0B, 0x16] ++
     [0x2C, 0x58, 0xB0, 0x7D, 0xFA, 0xE9, 0xCF, 0x83, 0x1B, 0x36, 0x6C, 0xD8, 0xAD, 0x47, 0x8E, 0x01] : List Byte) ∧
  ((List.range 255).map fun a => gfLog 0x11D (BitVec.ofNat 8 (a + 1))) =
    ([0x00, 0x01, 0x19, 0x02, 0x32, 0x1A, 0xC6, 0x03, 0xDF, 0x33, 0xEE, 0x1B, 0x68, 0xC7, 0x4B] ++
     [0x04, 0x64, 0xE0, 0x0E, 0x34, 0x8D, 0xEF, 0x81, 0x1C, 0xC1, 0x69, 0xF8, 0xC8, 0x08, 0x4C, 0x71] ++
     [0x05, 0x8A, 0x65, 0x2F, 0xE1, 0x24, 0x0F, 0x21, 0x35, 0x93, 0x8E, 0xDA, 0xF0, 0x12, 0x82, 0x45] ++
     [0x1D, 0xB5, 0xC2, 0x7D, 0x6A, 0x27, 0xF9, 0xB9, 0xC9, 0x9A, 0x09, 0x78, 0x4D, 0xE4, 0x72, 0xA6] ++
     [0x06, 0xBF, 0x8B, 0x62, 0x66, 0xDD, 0x30, 0xFD, 0xE2, 0x98, 0x25, 0xB3, 0x10, 0x91, 0x22, 0x88] ++
     [0x36, 0xD0, 0x94, 0xCE, 0x8F, 0x96, 0xDB, 0xBD, 0xF1, 0xD2, 0x13, 0x5C, 0x83, 0x38, 0x46, 0x40] ++
     [0x1E, 0x42, 0xB6, 0xA3, 0xC3, 0x48, 0x7E, 0x6E, 0x6B, 0x3A, 0x28, 0x54, 0xFA, 0x85, 0xBA, 0x3D] ++
     [0xCA, 0x5E, 0x9B, 0x9F, 0x0A, 0x15, 0x79, 0x2B, 0x4E, 0xD4, 0xE5, 0xAC, 0x73, 0xF3, 0xA7, 0x57] ++
     [0x07, 0x70, 0xC0, 0xF7, 0x8C, 0x80, 0x63, 0x0D, 0x67, 0x4A, 0xDE, 0xED, 0x31, 0xC5, 0xFE, 0x18] ++
     [0xE3, 0xA5, 0x99, 0x77, 0x26, 0xB8, 0xB4, 0x7C, 0x11, 0x44, 0x92, 0xD9, 0x23, 0x20, 0x89, 0x2E] ++
     [0x37, 0x3F, 0xD1, 0x5B, 0x95, 0xBC, 0xCF, 0xCD, 0x90, 0x87, 0x97, 0xB2, 0xDC, 0xFC, 0xBE, 0x61] ++
     [0xF2, 0x56, 0xD3, 0xAB, 0x14, 0x2A, 0x5D, 0x9E, 0x84, 0x3C, 0x39, 0x53, 0x47, 0x6D, 0x41, 0xA2] ++
     [0x1F, 0x2D, 0x43, 0xD8, 0xB7, 0x7B, 0xA4, 0x76, 0xC4, 0x17, 0x49, 0xEC, 0x7F, 0x0C, 0x6F, 0xF6] ++
     [0x6C, 0xA1, 0x3B, 0x52, 0x29, 0x9D, 0x55, 0xAA, 0xFB, 0x60, 0x86, 0xB1, 0xBB, 0xCC, 0x3E, 0x5A] ++
     [0xCB, 0x59, 0x5F, 0xB0, 0x9C, 0xA9, 0xA0, 0x51, 0x0B, 0xF5, 0x16, 0xEB, 0x7A, 0x75, 0x2C, 0xD7] ++
     [0x4F, 0xAE, 0xD5, 0xE9, 0xE6, 0xE7, 0xAD, 0xE8, 0x74, 0xD6, 0xF4, 0xEA, 0xA8, 0x50, 0x58, 0xAF] : List Nat).map some

/-! ### The commands -/

/-- `GFMUL a, b`: `OUT[0]` is the product and no other register changes but the flags, for every `a` and `b`,
which are `w[15:8]` and `w[23:16]`; a set bit of `w[31:24]` is the one error; `a = 1` returns `b`; the worked example (R97). -/
def Obligations.GfmulWritesTheProduct : Prop :=
  (∀ (a b : Byte) (s : State), ∃ t, exec (.gfmul a b) s = .next t ∧
    CommandEffect s t [gfMul fieldPoly a b] doneStatus) ∧
  (∀ w : Word, w.extractLsb' 0 8 = 0x01 →
    decode w = if w.extractLsb' 24 8 ≠ 0 then .error .reservedNonzero else .ok (.gfmul (w.extractLsb' 8 8) (w.extractLsb' 16 8))) ∧
  (∀ b : Byte, gfMul fieldPoly 0 b = 0 ∧ gfMul fieldPoly b 0 = 0 ∧ gfMul fieldPoly 1 b = b) ∧
  gfLog 0x11D 0x02 = some 1 ∧ gfLog 0x11D 0x80 = some 7 ∧ gfExp 0x11D 8 = 0x1D ∧ gfMul 0x11D 0x02 0x80 = 0x1D

/-- `GFINV a`: for `a != 0`, `OUT[0]` is the byte whose product with `a` is 1; for `a = 0` the error `InvZero` and nothing
else; a set bit of `w[31:16]` is the other error; `a = 1` gives 1 and the worked example (R98). -/
def Obligations.GfinvWritesTheInverse : Prop :=
  (∀ (a : Byte) (s : State), a ≠ 0 → ∃ t v, exec (.gfinv a) s = .next t ∧ CommandEffect s t [v] doneStatus ∧
    gfInv fieldPoly a = some v ∧ gfMul fieldPoly a v = 1) ∧
  (∀ s : State, exec (.gfinv 0) s = .next (afterError .invZero s)) ∧
  (∀ w : Word, w.extractLsb' 0 8 = 0x02 →
    decode w = if w.extractLsb' 16 16 ≠ 0 then .error .reservedNonzero else .ok (.gfinv (w.extractLsb' 8 8))) ∧
  gfInv fieldPoly 1 = some 1 ∧ gfInv 0x11D 0x02 = some (gfExp 0x11D 254) ∧ gfInv 0x11D 0x02 = some 0x8E ∧
  gfMul 0x11D 0x02 0x8E = 0x01 ∧ errCode .invZero = 4

/-- `PMUL`: `OUT[0..12]` is the product of the polynomials in `IN[0..6]` and `IN[7..13]`, for every state; its corner cases
and the worked example, for every field polynomial (R100). -/
def Obligations.PmulWritesTheProductPolynomial : Prop :=
  (∀ s : State, ∃ t, exec .pmul s = .next t ∧
    CommandEffect s t (polyMul fieldPoly (s.inBuf.toList.take 7) ((s.inBuf.toList.drop 7).take 7)) doneStatus) ∧
  (∀ w : Word, w.extractLsb' 0 8 = 0x03 →
    decode w = if w.extractLsb' 8 24 ≠ 0 then .error .reservedNonzero else .ok .pmul) ∧
  (∀ fp ∈ Config.fieldPolys, ∀ p q : List Byte, p.length = 7 → q.length = 7 →
    polyMul fp (List.replicate 7 0) p = List.replicate 13 0 ∧ polyMul fp p (List.replicate 7 0) = List.replicate 13 0 ∧
    polyMul fp [1, 0, 0, 0, 0, 0, 0] p = p ++ List.replicate 6 0 ∧
    coeff (polyMul fp p q) 12 = gfMul fp (coeff p 6) (coeff q 6)) ∧
  (∀ fp ∈ Config.fieldPolys, polyMul fp [0x08, 0x06, 0x01, 0, 0, 0, 0] [0x08, 0x01, 0, 0, 0, 0, 0] =
    [0x40, 0x38, 0x0E, 0x01, 0, 0, 0, 0, 0, 0, 0, 0, 0])

/-- `RSENC len`: for `len = 9` the codeword of `IN[0..8]` goes to `OUT[0..11]`; any other length is `InvalidLength` and
nothing else; a set bit of `w[31:16]` is the other error; the worked example (R113). -/
def Obligations.RsencWritesTheCodeword : Prop :=
  (∀ s : State, ∃ t, exec (.rsenc 9) s = .next t ∧
    CommandEffect s t (rsEncode fieldPoly (s.inBuf.toList.take 9)) doneStatus) ∧
  (∀ (len : Byte) (s : State), len ≠ 9 → exec (.rsenc len) s = .next (afterError .invalidLength s)) ∧
  (∀ w : Word, w.extractLsb' 0 8 = 0x10 →
    decode w = if w.extractLsb' 16 16 ≠ 0 then .error .reservedNonzero else .ok (.rsenc (w.extractLsb' 8 8))) ∧
  rsEncode 0x11D [0x11, 0x22, 0x33, 0x44, 0x55, 0x66, 0x77, 0x88, 0x99] =
    [0x11, 0x22, 0x33, 0x44, 0x55, 0x66, 0x77, 0x88, 0x99, 0xB3, 0x23, 0xF2]

/-- `RSSYN len`: for `len = 12` the syndromes of `IN[0..11]` go to `OUT[0..2]` and `SZ` says whether all are zero; any other
length is `InvalidLength` and nothing else; a set bit of `w[31:16]` is the other error; the worked example (R123). -/
def Obligations.RssynWritesTheSyndromes : Prop :=
  (∀ s : State, ∃ t, exec (.rssyn 12) s = .next t ∧
    let S := rsSyndromes fieldPoly (s.inBuf.toList.take 12)
    CommandEffect s t [S.s1, S.s2, S.s3] { doneStatus with sz := decide (S.s1 = 0 ∧ S.s2 = 0 ∧ S.s3 = 0) }) ∧
  (∀ (len : Byte) (s : State), len ≠ 12 → exec (.rssyn len) s = .next (afterError .invalidLength s)) ∧
  (∀ w : Word, w.extractLsb' 0 8 = 0x11 →
    decode w = if w.extractLsb' 16 16 ≠ 0 then .error .reservedNonzero else .ok (.rssyn (w.extractLsb' 8 8))) ∧
  rsSyndromes 0x11D [0, 0, 0, 0, 0, 0, 0, 0, 0, 0xFF, 0, 0] = { s1 := 0xDB, s2 := 0x4B, s3 := 0x31 }

/-- `RSDEC len`: for `len = 12` the output codeword of `RSDecF` on `IN[0..11]` goes to `OUT[0..11]` with its `ERRCNT`, `UNC`
and `SZ`, and is `IN[0..11]` itself whenever `UNC = 1`; any other length writes no `OUT` byte and sets `UNC` alone; `ERR`
stays 0 always; a set bit of `w[31:16]` is the one error; the worked example (R140). -/
def Obligations.RsdecWritesTheDecodedCodeword : Prop :=
  (∀ s : State, ∃ t c, exec (.rsdec 12) s = .next t ∧
    let r := rsDecode fieldPoly 12 (s.inBuf.toList.take 12)
    r.codeword = some c ∧ c.length = 12 ∧ (r.uncorrectable = true → c = s.inBuf.toList.take 12) ∧
    CommandEffect s t c { doneStatus with errcnt := BitVec.ofNat 4 r.errorsFound, unc := r.uncorrectable, sz := r.syndromesZero }) ∧
  (∀ (len : Byte) (s : State), len ≠ 12 → ∃ t, exec (.rsdec len) s = .next t ∧
    CommandEffect s t [] { doneStatus with unc := true }) ∧
  (∀ w : Word, w.extractLsb' 0 8 = 0x12 →
    decode w = if w.extractLsb' 16 16 ≠ 0 then .error .reservedNonzero else .ok (.rsdec (w.extractLsb' 8 8))) ∧
  (let S := rsSyndromes 0x11D [0, 0, 0, 0, 0, 0, 0, 0, 0, 0xFF, 0, 0]
    let lam := (locator 0x11D S.poly).lam
    S = { s1 := 0xDB, s2 := 0x4B, s3 := 0x31 } ∧ lam = [0x01, 0x04, 0, 0, 0, 0, 0] ∧
    evaluatorOf (polyMul 0x11D lam S.poly) = [0xDB, 0, 0] ∧ chienSearch 0x11D lam = [255 - 253] ∧
    gfDiv 0x11D 0xDB 0x04 = some 0xFF) ∧
  rsDecode 0x11D 12 [0, 0, 0, 0, 0, 0, 0, 0, 0, 0xFF, 0, 0] =
    { codeword := some (List.replicate 12 0), errorsFound := 1, uncorrectable := false, syndromesZero := false }

/-- `CRCCOMP len`: for `len ≤ IN_LEN` the checksum of `IN[0..len-1]` goes to `OUT[0..1]`, high byte first; a longer length is
`InvalidLength` and nothing else; `len = 0` gives `init ^ xorout`; a set bit of `w[31:16]` is the other error; the worked
example (R153). -/
def Obligations.CrccompWritesTheChecksum : Prop :=
  (∀ (len : Byte) (s : State), len.toNat ≤ Config.inLen → ∃ t, exec (.crccomp len) s = .next t ∧
    let k := crcF crcAlg (s.inBuf.toList.take len.toNat)
    CommandEffect s t [k.extractLsb' 8 8, k.extractLsb' 0 8] doneStatus) ∧
  (∀ (len : Byte) (s : State), Config.inLen < len.toNat → exec (.crccomp len) s = .next (afterError .invalidLength s)) ∧
  (∀ w : Word, w.extractLsb' 0 8 = 0x20 →
    decode w = if w.extractLsb' 16 16 ≠ 0 then .error .reservedNonzero else .ok (.crccomp (w.extractLsb' 8 8))) ∧
  crcF crcAlg [] = crcAlg.init ^^^ crcAlg.xorout ∧
  crcF { poly := 0x1021, init := 0x0000, refin := false, refout := false, xorout := 0xFFFF }
    [0x11, 0x22, 0x33, 0x44, 0x55, 0x66, 0x77, 0x88, 0x99, 0xAA] = 0x2788

/-- `CRCVFY len`: for `2 ≤ len ≤ IN_LEN` the masked checksum of the covered span goes to `OUT[0..1]` and `CRCOK` says whether
it is the trailing one; a mismatch is no error; any other length is `InvalidLength` and nothing else; a set bit of
`w[31:16]` is the other error; the worked example (R157). -/
def Obligations.CrcvfyComparesTheMaskedChecksum : Prop :=
  (∀ (len : Byte) (s : State), 2 ≤ len.toNat → len.toNat ≤ Config.inLen → ∃ t, exec (.crcvfy len) s = .next t ∧
    let k := crcF crcAlg (s.inBuf.toList.take (len.toNat - 2))
    let m := if s.masken = true then s.mask else 0
    let v := k ^^^ m
    let T : Half := ((s.inBuf.toList.getD (len.toNat - 2) 0).setWidth 16 <<< 8) |||
      (s.inBuf.toList.getD (len.toNat - 1) 0).setWidth 16
    CommandEffect s t [v.extractLsb' 8 8, v.extractLsb' 0 8] { doneStatus with crcok := decide (v = T) }) ∧
  (∀ (len : Byte) (s : State), len.toNat < 2 ∨ Config.inLen < len.toNat →
    exec (.crcvfy len) s = .next (afterError .invalidLength s)) ∧
  (∀ w : Word, w.extractLsb' 0 8 = 0x21 →
    decode w = if w.extractLsb' 16 16 ≠ 0 then .error .reservedNonzero else .ok (.crcvfy (w.extractLsb' 8 8))) ∧
  crcF { poly := 0x1021, init := 0x0000, refin := false, refout := false, xorout := 0xFFFF }
    [0x11, 0x22, 0x33, 0x44, 0x55, 0x66, 0x77, 0x88, 0x99, 0xAA] ^^^ 0xA5A5 = 0x822D

/-! ### The Reed-Solomon codec -/

/-- The generator polynomial is `(x + α)(x + α²)(x + α³)` in every admissible field, with the constant coefficients of the
encoder (R110). -/
def Obligations.GeneratorHasTheThreeRoots : Prop :=
  ∀ fp ∈ Config.fieldPolys,
    polyMul fp ((polyMul fp [gfExp fp 1, 1, 0, 0, 0, 0, 0] [gfExp fp 2, 1, 0, 0, 0, 0, 0]).take 7)
      [gfExp fp 3, 1, 0, 0, 0, 0, 0] = [gen0, gen1, gen2, 1, 0, 0, 0, 0, 0, 0, 0, 0, 0] ∧
    [gen0, gen1, gen2] = [0x40, 0x38, 0x0E] ∧ gfExp fp 1 = 2 ∧ gfExp fp 2 = 4 ∧ gfExp fp 3 = 8

/-- The encoder for every admissible field: zero data gives zero parity; it is linear; every codeword has zero syndromes; a
single data byte `v` at index 8 gives parity `v ⊗ (0E, 38, 40)` (R114). -/
def Obligations.EncoderIsLinearAndItsCodewordsHaveZeroSyndromes : Prop :=
  ∀ fp ∈ Config.fieldPolys,
    rsEncode fp (List.replicate 9 0) = List.replicate 12 0 ∧
    (∀ d e : List Byte, d.length = 9 → e.length = 9 →
      rsEncode fp (addBytes d e) = addBytes (rsEncode fp d) (rsEncode fp e)) ∧
    (∀ (k : Byte) (d : List Byte), d.length = 9 →
      rsEncode fp (d.map (gfMul fp k)) = (rsEncode fp d).map (gfMul fp k)) ∧
    (∀ d : List Byte, d.length = 9 → rsSyndromes fp (rsEncode fp d) = { s1 := 0, s2 := 0, s3 := 0 }) ∧
    (∀ v : Byte, rsEncode fp [0, 0, 0, 0, 0, 0, 0, 0, v] =
      [0, 0, 0, 0, 0, 0, 0, 0, v, gfMul fp v 0x0E, gfMul fp v 0x38, gfMul fp v 0x40])

/-- The syndromes are linear, and a single error `e` at byte index `p` of a codeword gives `Sj = e ⊗ α^(j(11-p))`, all three
nonzero (42_rs_decode.md R122 (a) and (c)). -/
def Obligations.SyndromesAreLinearAndSeeEverySingleError : Prop :=
  ∀ fp ∈ Config.fieldPolys,
    (∀ c e : List Byte, c.length = 12 → e.length = 12 →
      let S := rsSyndromes fp c
      let T := rsSyndromes fp e
      rsSyndromes fp (addBytes c e) = { s1 := S.s1 ^^^ T.s1, s2 := S.s2 ^^^ T.s2, s3 := S.s3 ^^^ T.s3 }) ∧
    (∀ (d : List Byte) (p : Nat) (e : Byte), d.length = 9 → p < 12 → e ≠ 0 →
      let S := rsSyndromes fp (corrupt (rsEncode fp d) p e)
      S.s1 = gfMul fp e (gfExp fp ((1 * (11 - p)) % 255)) ∧ S.s2 = gfMul fp e (gfExp fp ((2 * (11 - p)) % 255)) ∧
      S.s3 = gfMul fp e (gfExp fp ((3 * (11 - p)) % 255)) ∧ S.s1 ≠ 0 ∧ S.s2 ≠ 0 ∧ S.s3 ≠ 0)

/-- The syndromes are all zero exactly when the word is a codeword (42_rs_decode.md R122 (b), 90_conflicts.md C3). -/
def Obligations.SyndromesAreZeroExactlyOnCodewords : Prop :=
  ∀ fp ∈ Config.fieldPolys, ∀ c : List Byte, c.length = 12 →
    (rsSyndromes fp c = { s1 := 0, s2 := 0, s3 := 0 } ↔ c = rsEncode fp (c.take 9))

/-- The locator after the three passes, in closed form, case by case (R128). -/
def Obligations.LocatorClosedForm : Prop :=
  ∀ fp ∈ Config.fieldPolys, ∀ S : Syndromes,
    let st := locator fp S.poly
    (S.s1 ≠ 0 → ∃ l1 l2, gfDiv fp S.s2 S.s1 = some l1 ∧
      gfDiv fp (gfMul fp S.s1 S.s3 ^^^ gfMul fp S.s2 S.s2) (gfMul fp S.s1 S.s1) = some l2 ∧
      st.lam = [1, l1, l2, 0, 0, 0, 0] ∧ st.ell = if l2 = 0 then 1 else 2) ∧
    (S.s1 = 0 → S.s2 ≠ 0 → ∃ l1, gfDiv fp S.s3 S.s2 = some l1 ∧ st.lam = [1, l1, S.s2, 0, 0, 0, 0] ∧ st.ell = 2) ∧
    (S.s1 = 0 → S.s2 = 0 → S.s3 ≠ 0 → st.lam = [1, 0, 0, S.s3, 0, 0, 0] ∧ st.ell = 3)

/-- The evaluator in closed form: one coefficient, the first nonzero syndrome (R131). -/
def Obligations.EvaluatorClosedForm : Prop :=
  ∀ fp ∈ Config.fieldPolys, ∀ S : Syndromes,
    let omg := evaluatorOf (polyMul fp (locator fp S.poly).lam S.poly)
    (S.s1 ≠ 0 → omg = [S.s1, 0, 0]) ∧
    (S.s1 = 0 → S.s2 ≠ 0 → omg = [0, S.s2, 0]) ∧
    (S.s1 = 0 → S.s2 = 0 → S.s3 ≠ 0 → omg = [0, 0, S.s3])

/-- The Chien search records, in decreasing order, exactly the positions `p` in 0..254 with a root at `α^(255-p)`, and never
more than three of them (R132). -/
def Obligations.ChienSearchFindsAtMostThreeRoots : Prop :=
  ∀ fp ∈ Config.fieldPolys, ∀ S : Syndromes, S ≠ { s1 := 0, s2 := 0, s3 := 0 } →
    let lam := (locator fp S.poly).lam
    (chienSearch fp lam).length ≤ 3 ∧ (chienSearch fp lam).Pairwise (fun p q => q < p) ∧
    ∀ p : Nat, p ∈ chienSearch fp lam ↔ (p ≤ 254 ∧ evalPoly fp lam (gfExp fp (255 - p)) = 0)

/-- What the document promises, for every admissible field: a clean codeword decodes to itself with no error; any change of
one byte, at any index, is corrected to the whole original codeword with one error reported; any such change gives a
nonzero syndrome and the zero word gives none (R142). -/
def Obligations.EverySingleByteErrorIsCorrected : Prop :=
  ∀ fp ∈ Config.fieldPolys, ∀ d : List Byte, d.length = 9 →
    rsDecode fp 12 (rsEncode fp d) =
      { codeword := some (rsEncode fp d), errorsFound := 0, uncorrectable := false, syndromesZero := true } ∧
    (rsEncode fp d).take 9 = d ∧
    (∀ (p : Nat) (e : Byte), p < 12 → e ≠ 0 →
      rsDecode fp 12 (corrupt (rsEncode fp d) p e) =
        { codeword := some (rsEncode fp d), errorsFound := 1, uncorrectable := false, syndromesZero := false } ∧
      rsSyndromes fp (corrupt (rsEncode fp d) p e) ≠ { s1 := 0, s2 := 0, s3 := 0 }) ∧
    rsSyndromes fp (List.replicate 12 0) = { s1 := 0, s2 := 0, s3 := 0 }

/-- Two byte errors of equal value at two indices are corrected exactly, with two errors reported (42_rs_decode.md R143 (b)). -/
def Obligations.EqualDoubleErrorsAreCorrected : Prop :=
  ∀ fp ∈ Config.fieldPolys, ∀ (d : List Byte) (p q : Nat) (e : Byte), d.length = 9 → p < q → q < 12 → e ≠ 0 →
    rsDecode fp 12 (corrupt (corrupt (rsEncode fp d) p e) q e) =
      { codeword := some (rsEncode fp d), errorsFound := 2, uncorrectable := false, syndromesZero := false }

/-- Class A1 of the decoder's outcomes: one root, corrected when its position is in 0..11, else uncorrectable
(42_rs_decode.md R141). -/
def Obligations.SingleRootClassIsCorrectedInRange : Prop :=
  ∀ fp ∈ Config.fieldPolys, ∀ c : List Byte, c.length = 12 →
    let S := rsSyndromes fp c
    S.s1 ≠ 0 → S.s2 ≠ 0 → gfMul fp S.s1 S.s3 = gfMul fp S.s2 S.s2 →
    ∃ x i v, gfDiv fp S.s2 S.s1 = some x ∧ gfLog fp x = some i ∧ gfDiv fp (gfMul fp S.s1 S.s1) S.s2 = some v ∧
      rsDecode fp 12 c =
        if i ≤ 11 then { codeword := some (corrupt c (11 - i) v), errorsFound := 1, uncorrectable := false, syndromesZero := false }
        else { codeword := some c, errorsFound := 1, uncorrectable := true, syndromesZero := false }

/-- Classes A2, A3, B1 and C, which never change a byte: no root is a no-op that reports no error; a repeated root has a zero
derivative and is uncorrectable; three roots are uncorrectable (42_rs_decode.md R134, R137, R141). -/
def Obligations.UncorrectedClassesReturnTheWordUnchanged : Prop :=
  ∀ fp ∈ Config.fieldPolys, ∀ c : List Byte, c.length = 12 →
    let S := rsSyndromes fp c
    let r := rsDecode fp 12 c
    (S.s1 ≠ 0 → S.s2 = 0 → S.s3 = 0 →
      r = { codeword := some c, errorsFound := 0, uncorrectable := false, syndromesZero := false }) ∧
    ((S.s1 ≠ 0 ∧ S.s2 = 0 ∧ S.s3 ≠ 0) ∨ (S.s1 = 0 ∧ S.s2 ≠ 0 ∧ S.s3 = 0) →
      r = { codeword := some c, errorsFound := 1, uncorrectable := true, syndromesZero := false }) ∧
    (S.s1 = 0 → S.s2 = 0 → S.s3 ≠ 0 → ∃ l, gfLog fp S.s3 = some l ∧
      r = if l % 3 = 0 then { codeword := some c, errorsFound := 3, uncorrectable := true, syndromesZero := false }
        else { codeword := some c, errorsFound := 0, uncorrectable := false, syndromesZero := false })

/-- Classes A4 and B2, a locator of degree two with two different roots or none: no root is a no-op; two roots in 0..11 are
both corrected, by the values R141 gives; else uncorrectable (42_rs_decode.md R141). -/
def Obligations.TwoRootClassesAreCorrectedInRange : Prop :=
  ∀ fp ∈ Config.fieldPolys, ∀ c : List Byte, c.length = 12 →
    let S := rsSyndromes fp c
    let outcome := fun (l1 l2 : Byte) (value : Nat → Option Byte) =>
      ((¬ ∃ i j, i ≤ 254 ∧ j ≤ 254 ∧ gfExp fp i ^^^ gfExp fp j = l1 ∧ gfMul fp (gfExp fp i) (gfExp fp j) = l2) ∧
        rsDecode fp 12 c = { codeword := some c, errorsFound := 0, uncorrectable := false, syndromesZero := false }) ∨
      ∃ i j u v, i < j ∧ j ≤ 254 ∧ gfExp fp i ^^^ gfExp fp j = l1 ∧ gfMul fp (gfExp fp i) (gfExp fp j) = l2 ∧
        value i = some u ∧ value j = some v ∧
        rsDecode fp 12 c =
          if j ≤ 11 then { codeword := some (corrupt (corrupt c (11 - i) u) (11 - j) v), errorsFound := 2, uncorrectable := false, syndromesZero := false }
          else { codeword := some c, errorsFound := 2, uncorrectable := true, syndromesZero := false }
    (S.s1 ≠ 0 → S.s2 ≠ 0 → gfMul fp S.s1 S.s3 ≠ gfMul fp S.s2 S.s2 →
      ∃ l1 l2, gfDiv fp S.s2 S.s1 = some l1 ∧
        gfDiv fp (gfMul fp S.s1 S.s3 ^^^ gfMul fp S.s2 S.s2) (gfMul fp S.s1 S.s1) = some l2 ∧
        outcome l1 l2 (fun _ => gfDiv fp (gfMul fp S.s1 S.s1) S.s2)) ∧
    (S.s1 = 0 → S.s2 ≠ 0 → S.s3 ≠ 0 → ∃ l1, gfDiv fp S.s3 S.s2 = some l1 ∧
      outcome l1 S.s2 (fun i => gfDiv fp (gfMul fp S.s2 S.s2) (gfMul fp S.s3 (gfExp fp i))))

/-- Whenever the decoder reports a correction, its output is a codeword (42_rs_decode.md R143 (g)). -/
def Obligations.CorrectedOutputIsACodeword : Prop :=
  ∀ fp ∈ Config.fieldPolys, ∀ (c c' : List Byte) (n : Nat), c.length = 12 → 0 < n →
    rsDecode fp 12 c = { codeword := some c', errorsFound := n, uncorrectable := false, syndromesZero := false } →
    rsSyndromes fp c' = { s1 := 0, s2 := 0, s3 := 0 }

/-- The ways `RSDEC` ends, told apart by `UNC`, `ERRCNT` and `SZ`: clean, corrected with one or two errors, unlocatable no-op,
uncorrectable; the word is unchanged in all but the second (60_exceptions.md R174). -/
def Obligations.DecoderHasFourEndings : Prop :=
  ∀ fp ∈ Config.fieldPolys, ∀ c : List Byte, c.length = 12 →
    let r := rsDecode fp 12 c
    (r.uncorrectable = false ∧ r.errorsFound = 0 ∧ r.syndromesZero = true ∧ r.codeword = some c) ∨
    (r.uncorrectable = false ∧ (r.errorsFound = 1 ∨ r.errorsFound = 2) ∧ r.syndromesZero = false) ∨
    (r.uncorrectable = false ∧ r.errorsFound = 0 ∧ r.syndromesZero = false ∧ r.codeword = some c) ∨
    (r.uncorrectable = true ∧ r.syndromesZero = false ∧ r.codeword = some c)

/-! ### The CRC validator -/

/-- `CRCF` for every parameter record is affine, and with bit 0 of `poly` set it detects every single-bit change; with the
default record any number of zero bytes gives 0xFFFF (R154). -/
def Obligations.ChecksumIsAffineAndSeesEveryBit : Prop :=
  (∀ (alg : Config.CrcAlg) (a b : List Byte), a.length = b.length →
    crcF alg (addBytes a b) = crcF alg a ^^^ crcF alg b ^^^ crcF alg (List.replicate a.length 0)) ∧
  (∀ (alg : Config.CrcAlg) (bs : List Byte) (j k : Nat), alg.poly.getLsbD 0 = true → j < bs.length → k < 8 →
    crcF alg (flipBit bs j k) ≠ crcF alg bs) ∧
  (∀ n : Nat, crcF { poly := 0x1021, init := 0x0000, refin := false, refout := false, xorout := 0xFFFF }
    (List.replicate n 0) = 0xFFFF)

/-- After a `CRCVFY` with `CRCOK = 1`, changing any one bit of the PDU and repeating the command gives `CRCOK = 0` (R158). -/
def Obligations.CrcvfyDetectsEveryBitChange : Prop :=
  ∀ (len : Byte) (s t : State), 2 ≤ len.toNat → len.toNat ≤ Config.inLen → exec (.crcvfy len) s = .next t →
    t.status.crcok = true →
    ∀ (j : Fin Config.inLen) (k : Nat), j < len.toNat → k < 8 →
      ∃ u, exec (.crcvfy len) { s with inBuf := s.inBuf.set j (s.inBuf[j] ^^^ (1 <<< k)) } = .next u ∧
        u.status.crcok = false ∧ u.status.err = .none

/-- Masking the checksum or the trailing bytes is one comparison, and a PDU whose trailing bytes are the checksum of its span
masked with the mask in force verifies (R156). -/
def Obligations.MaskedTrailingBytesVerify : Prop :=
  (∀ k m T : Half, k ^^^ m = T ↔ k = T ^^^ m) ∧
  (∀ (len : Byte) (s : State) (hi lo : Byte), 2 ≤ len.toNat → len.toNat ≤ Config.inLen →
    s.inBuf.toList.getD (len.toNat - 2) 0 = hi → s.inBuf.toList.getD (len.toNat - 1) 0 = lo →
    (hi.setWidth 16 <<< 8) ||| lo.setWidth 16 =
      crcF crcAlg (s.inBuf.toList.take (len.toNat - 2)) ^^^ (if s.masken = true then s.mask else 0) →
    ∃ t, exec (.crcvfy len) s = .next t ∧ t.status.crcok = true ∧ t.outBuf[0] = hi ∧ t.outBuf[1] = lo)
end

