-- ==== Sys2Proof/Laws/Engines.lean ====
section
/-! SUPPORT. The small lemmas of the engines' functions: the zero cases of the field, the lengths of what the codec and the
CRC hand to the registers, and the folds one byte at a time. -/

namespace Sys2Proof.Machine

/-- `LOG[0]` does not exist (R21). -/
@[simp] theorem gfLog_zero (fp : BitVec 9) : gfLog fp 0#8 = none := rfl

theorem gfLog_of_ne {fp : BitVec 9} {a : Byte} (h : a ≠ 0#8) :
    gfLog fp a = some (logRom fp >>> (8 * a.toNat) % 256) := if_neg h

@[simp] theorem gfMul_zero_left (fp : BitVec 9) (b : Byte) : gfMul fp 0#8 b = 0#8 := rfl

@[simp] theorem gfMul_zero_right (fp : BitVec 9) (a : Byte) : gfMul fp a 0#8 = 0#8 := by
  unfold gfMul
  cases gfLog fp a <;> rfl

/-- The product of two nonzero bytes, through the ROMs (R95). -/
theorem gfMul_of_log {fp : BitVec 9} {a b : Byte} {la lb : Nat} (ha : gfLog fp a = some la) (hb : gfLog fp b = some lb) :
    gfMul fp a b = gfExp fp ((la + lb) % 255) := by simp [gfMul, ha, hb]

/-- `GFInvF(0)` is not defined (R96). -/
@[simp] theorem gfInv_zero (fp : BitVec 9) : gfInv fp 0#8 = none := rfl

/-- `GFInvF` is defined exactly off zero (R96). -/
theorem gfInv_eq_none_iff (fp : BitVec 9) (a : Byte) : gfInv fp a = none ↔ a = 0#8 := by
  by_cases h : a = 0#8
  · simp [h]
  · simp [gfInv, gfLog_of_ne h, h]

@[simp] theorem xorSum_nil : xorSum [] = 0 := rfl

/-- The sum taken one byte at a time. -/
theorem xorSum_cons (x : Byte) (xs : List Byte) : xorSum (x :: xs) = x ^^^ xorSum xs := by
  have key : ∀ (ys : List Byte) (a b : Byte), ys.foldl (· ^^^ ·) (a ^^^ b) = a ^^^ ys.foldl (· ^^^ ·) b := by
    intro ys
    induction ys with
    | nil => intros; rfl
    | cons y ys ih => intro a b; simp only [List.foldl_cons]; rw [BitVec.xor_assoc, ih]
  unfold xorSum
  rw [List.foldl_cons]
  simpa using key xs x 0

@[simp] theorem polyMul_length (fp : BitVec 9) (p q : List Byte) : (polyMul fp p q).length = 13 := by simp [polyMul]

@[simp] theorem evaluatorOf_length (fp : BitVec 9) (p q : List Byte) : (evaluatorOf (polyMul fp p q)).length = 3 := by
  simp [evaluatorOf, Config.checksumSize]

@[simp] theorem rsEncode_length (fp : BitVec 9) (d : List Byte) : (rsEncode fp d).length = d.length + 3 := by
  simp [rsEncode]

@[simp] theorem codewordFrom_runEncoder (fp : BitVec 9) (d : List Byte) (w : Workspace) :
    codewordFrom d (runEncoder fp d w) = rsEncode fp d := by simp [codewordFrom, runEncoder, rsEncode, coeff]

@[simp] theorem syndromesPoly_length (S : Syndromes) : S.poly.length = 7 := by simp [Syndromes.poly]

@[simp] theorem locatorNew_length (fp : BitVec 9) (st : LocatorState) (d : Byte) : (locatorNew fp st d).length = 7 := by
  simp [locatorNew]

/-- A correction changes no length, so a corrected codeword has as many bytes as the received one. -/
@[simp] theorem applyCorrections_length (cw : List Byte) (pos : List Nat) (val : List Byte) :
    (applyCorrections cw pos val).length = cw.length := by
  unfold applyCorrections
  induction pos.zip val generalizing cw with
  | nil => rfl
  | cons pv rest ih => rw [List.foldl_cons, ih]; simp [correctByte]

/-- Every position the search records is at most 254 (R132). -/
theorem chienSearch_le {fp : BitVec 9} {lam : List Byte} {p : Nat} (h : p ∈ chienSearch fp lam) : p ≤ 254 := by
  simp only [chienSearch, List.mem_map, List.mem_filter, List.mem_range'_1] at h
  obtain ⟨r, ⟨⟨h1, _⟩, _⟩, rfl⟩ := h
  omega

/-- One error value per position, when there are error values at all (R136). -/
theorem errorValues_length {fp : BitVec 9} {lam omg : List Byte} {pos : List Nat} {val : List Byte}
    (h : errorValues fp lam omg pos = some val) : val.length = pos.length := by
  induction pos generalizing val with
  | nil => simp [errorValues] at h; simp [← h]
  | cons p pos ih =>
    unfold errorValues at h
    split at h
    · rename_i v vs _ hvs
      cases h
      simp [ih hvs]
    · cases h

@[simp] theorem inPrefix_length (s : State) (n : Nat) : (inPrefix s n).length = min n 32 := by simp [inPrefix]

@[simp] theorem halfBytes_length (k : Half) : (halfBytes k).length = 2 := by simp [halfBytes]

/-- The accumulator one byte at a time (R152). -/
@[simp] theorem crcRaw_append (alg : Config.CrcAlg) (xs ys : List Byte) :
    crcRaw alg (xs ++ ys) = ys.foldl (crcByte alg) (crcRaw alg xs) := by simp [crcRaw]

/-- `CRCF` of the empty sequence (R152). -/
theorem crcF_nil (alg : Config.CrcAlg) : crcF alg [] = crcFinish alg alg.init := rfl

end Sys2Proof.Machine
end

