-- ==== Sys2Proof/Laws/State.lean ====
section
/-! SUPPORT. One lemma per field per state update, true by unfolding, so that no later proof unfolds a record update. -/

namespace Sys2Proof.Machine

@[simp] theorem clearFlags_inBuf (s : State) : (clearFlags s).inBuf = s.inBuf := rfl
@[simp] theorem clearFlags_outBuf (s : State) : (clearFlags s).outBuf = s.outBuf := rfl
@[simp] theorem clearFlags_status (s : State) : (clearFlags s).status = { valid := s.status.valid, sz := false, unc := false, crcok := false, errcnt := 0, err := .none } := rfl
@[simp] theorem clearFlags_masken (s : State) : (clearFlags s).masken = s.masken := rfl
@[simp] theorem clearFlags_mask (s : State) : (clearFlags s).mask = s.mask := rfl
@[simp] theorem clearFlags_work (s : State) : (clearFlags s).work = s.work := rfl
@[simp] theorem clearFlags_pending (s : State) : (clearFlags s).pending = s.pending := rfl
@[simp] theorem clearFlags_replies (s : State) : (clearFlags s).replies = s.replies := rfl

@[simp] theorem setValid_inBuf (s : State) : (setValid s).inBuf = s.inBuf := rfl
@[simp] theorem setValid_outBuf (s : State) : (setValid s).outBuf = s.outBuf := rfl
@[simp] theorem setValid_status (s : State) : (setValid s).status = { s.status with valid := true } := rfl
@[simp] theorem setValid_masken (s : State) : (setValid s).masken = s.masken := rfl
@[simp] theorem setValid_mask (s : State) : (setValid s).mask = s.mask := rfl
@[simp] theorem setValid_work (s : State) : (setValid s).work = s.work := rfl
@[simp] theorem setValid_pending (s : State) : (setValid s).pending = s.pending := rfl
@[simp] theorem setValid_replies (s : State) : (setValid s).replies = s.replies := rfl

@[simp] theorem setSz_inBuf (b : Bool) (s : State) : (setSz b s).inBuf = s.inBuf := rfl
@[simp] theorem setSz_outBuf (b : Bool) (s : State) : (setSz b s).outBuf = s.outBuf := rfl
@[simp] theorem setSz_status (b : Bool) (s : State) : (setSz b s).status = { s.status with sz := b } := rfl
@[simp] theorem setSz_masken (b : Bool) (s : State) : (setSz b s).masken = s.masken := rfl
@[simp] theorem setSz_mask (b : Bool) (s : State) : (setSz b s).mask = s.mask := rfl
@[simp] theorem setSz_work (b : Bool) (s : State) : (setSz b s).work = s.work := rfl
@[simp] theorem setSz_pending (b : Bool) (s : State) : (setSz b s).pending = s.pending := rfl
@[simp] theorem setSz_replies (b : Bool) (s : State) : (setSz b s).replies = s.replies := rfl

@[simp] theorem setCrcok_inBuf (b : Bool) (s : State) : (setCrcok b s).inBuf = s.inBuf := rfl
@[simp] theorem setCrcok_outBuf (b : Bool) (s : State) : (setCrcok b s).outBuf = s.outBuf := rfl
@[simp] theorem setCrcok_status (b : Bool) (s : State) : (setCrcok b s).status = { s.status with crcok := b } := rfl
@[simp] theorem setCrcok_masken (b : Bool) (s : State) : (setCrcok b s).masken = s.masken := rfl
@[simp] theorem setCrcok_mask (b : Bool) (s : State) : (setCrcok b s).mask = s.mask := rfl
@[simp] theorem setCrcok_work (b : Bool) (s : State) : (setCrcok b s).work = s.work := rfl
@[simp] theorem setCrcok_pending (b : Bool) (s : State) : (setCrcok b s).pending = s.pending := rfl
@[simp] theorem setCrcok_replies (b : Bool) (s : State) : (setCrcok b s).replies = s.replies := rfl

@[simp] theorem setDecodeFlags_inBuf (n : Nat) (u z : Bool) (s : State) : (setDecodeFlags n u z s).inBuf = s.inBuf := rfl
@[simp] theorem setDecodeFlags_outBuf (n : Nat) (u z : Bool) (s : State) : (setDecodeFlags n u z s).outBuf = s.outBuf := rfl
@[simp] theorem setDecodeFlags_status (n : Nat) (u z : Bool) (s : State) : (setDecodeFlags n u z s).status = { s.status with errcnt := BitVec.ofNat 4 n, unc := u, sz := z } := rfl
@[simp] theorem setDecodeFlags_masken (n : Nat) (u z : Bool) (s : State) : (setDecodeFlags n u z s).masken = s.masken := rfl
@[simp] theorem setDecodeFlags_mask (n : Nat) (u z : Bool) (s : State) : (setDecodeFlags n u z s).mask = s.mask := rfl
@[simp] theorem setDecodeFlags_work (n : Nat) (u z : Bool) (s : State) : (setDecodeFlags n u z s).work = s.work := rfl
@[simp] theorem setDecodeFlags_pending (n : Nat) (u z : Bool) (s : State) : (setDecodeFlags n u z s).pending = s.pending := rfl
@[simp] theorem setDecodeFlags_replies (n : Nat) (u z : Bool) (s : State) : (setDecodeFlags n u z s).replies = s.replies := rfl

@[simp] theorem raiseError_inBuf (e : ErrCode) (s : State) : (raiseError e s).inBuf = s.inBuf := rfl
@[simp] theorem raiseError_outBuf (e : ErrCode) (s : State) : (raiseError e s).outBuf = s.outBuf := rfl
@[simp] theorem raiseError_status (e : ErrCode) (s : State) : (raiseError e s).status = { s.status with err := e } := rfl
@[simp] theorem raiseError_masken (e : ErrCode) (s : State) : (raiseError e s).masken = s.masken := rfl
@[simp] theorem raiseError_mask (e : ErrCode) (s : State) : (raiseError e s).mask = s.mask := rfl
@[simp] theorem raiseError_work (e : ErrCode) (s : State) : (raiseError e s).work = s.work := rfl
@[simp] theorem raiseError_pending (e : ErrCode) (s : State) : (raiseError e s).pending = s.pending := rfl
@[simp] theorem raiseError_replies (e : ErrCode) (s : State) : (raiseError e s).replies = s.replies := rfl

@[simp] theorem writeOut_inBuf (bs : List Byte) (s : State) : (writeOut bs s).inBuf = s.inBuf := rfl
@[simp] theorem writeOut_outBuf (bs : List Byte) (s : State) : (writeOut bs s).outBuf = storeFrom s.outBuf 0 bs := rfl
@[simp] theorem writeOut_status (bs : List Byte) (s : State) : (writeOut bs s).status = s.status := rfl
@[simp] theorem writeOut_masken (bs : List Byte) (s : State) : (writeOut bs s).masken = s.masken := rfl
@[simp] theorem writeOut_mask (bs : List Byte) (s : State) : (writeOut bs s).mask = s.mask := rfl
@[simp] theorem writeOut_work (bs : List Byte) (s : State) : (writeOut bs s).work = s.work := rfl
@[simp] theorem writeOut_pending (bs : List Byte) (s : State) : (writeOut bs s).pending = s.pending := rfl
@[simp] theorem writeOut_replies (bs : List Byte) (s : State) : (writeOut bs s).replies = s.replies := rfl

@[simp] theorem setWork_inBuf (w : Workspace) (s : State) : (setWork w s).inBuf = s.inBuf := rfl
@[simp] theorem setWork_outBuf (w : Workspace) (s : State) : (setWork w s).outBuf = s.outBuf := rfl
@[simp] theorem setWork_status (w : Workspace) (s : State) : (setWork w s).status = s.status := rfl
@[simp] theorem setWork_masken (w : Workspace) (s : State) : (setWork w s).masken = s.masken := rfl
@[simp] theorem setWork_mask (w : Workspace) (s : State) : (setWork w s).mask = s.mask := rfl
@[simp] theorem setWork_work (w : Workspace) (s : State) : (setWork w s).work = w := rfl
@[simp] theorem setWork_pending (w : Workspace) (s : State) : (setWork w s).pending = s.pending := rfl
@[simp] theorem setWork_replies (w : Workspace) (s : State) : (setWork w s).replies = s.replies := rfl

@[simp] theorem writeCtrl_inBuf (v : Word) (s : State) : (writeCtrl v s).inBuf = s.inBuf := rfl
@[simp] theorem writeCtrl_outBuf (v : Word) (s : State) : (writeCtrl v s).outBuf = s.outBuf := rfl
@[simp] theorem writeCtrl_status (v : Word) (s : State) : (writeCtrl v s).status = s.status := rfl
@[simp] theorem writeCtrl_masken (v : Word) (s : State) : (writeCtrl v s).masken = v.getLsbD 0 := rfl
@[simp] theorem writeCtrl_mask (v : Word) (s : State) : (writeCtrl v s).mask = s.mask := rfl
@[simp] theorem writeCtrl_work (v : Word) (s : State) : (writeCtrl v s).work = s.work := rfl
@[simp] theorem writeCtrl_pending (v : Word) (s : State) : (writeCtrl v s).pending = s.pending := rfl
@[simp] theorem writeCtrl_replies (v : Word) (s : State) : (writeCtrl v s).replies = s.replies := rfl

@[simp] theorem writeCrcmask_inBuf (v : Word) (s : State) : (writeCrcmask v s).inBuf = s.inBuf := rfl
@[simp] theorem writeCrcmask_outBuf (v : Word) (s : State) : (writeCrcmask v s).outBuf = s.outBuf := rfl
@[simp] theorem writeCrcmask_status (v : Word) (s : State) : (writeCrcmask v s).status = s.status := rfl
@[simp] theorem writeCrcmask_masken (v : Word) (s : State) : (writeCrcmask v s).masken = s.masken := rfl
@[simp] theorem writeCrcmask_mask (v : Word) (s : State) : (writeCrcmask v s).mask = v.setWidth 16 := rfl
@[simp] theorem writeCrcmask_work (v : Word) (s : State) : (writeCrcmask v s).work = s.work := rfl
@[simp] theorem writeCrcmask_pending (v : Word) (s : State) : (writeCrcmask v s).pending = s.pending := rfl
@[simp] theorem writeCrcmask_replies (v : Word) (s : State) : (writeCrcmask v s).replies = s.replies := rfl

@[simp] theorem writeIn_inBuf (i : Fin Config.inLen) (v : Byte) (s : State) : (writeIn i v s).inBuf = s.inBuf.set i v := rfl
@[simp] theorem writeIn_outBuf (i : Fin Config.inLen) (v : Byte) (s : State) : (writeIn i v s).outBuf = s.outBuf := rfl
@[simp] theorem writeIn_status (i : Fin Config.inLen) (v : Byte) (s : State) : (writeIn i v s).status = s.status := rfl
@[simp] theorem writeIn_masken (i : Fin Config.inLen) (v : Byte) (s : State) : (writeIn i v s).masken = s.masken := rfl
@[simp] theorem writeIn_mask (i : Fin Config.inLen) (v : Byte) (s : State) : (writeIn i v s).mask = s.mask := rfl
@[simp] theorem writeIn_work (i : Fin Config.inLen) (v : Byte) (s : State) : (writeIn i v s).work = s.work := rfl
@[simp] theorem writeIn_pending (i : Fin Config.inLen) (v : Byte) (s : State) : (writeIn i v s).pending = s.pending := rfl
@[simp] theorem writeIn_replies (i : Fin Config.inLen) (v : Byte) (s : State) : (writeIn i v s).replies = s.replies := rfl

@[simp] theorem resetBlock_inBuf (x : Vector Byte Config.inLen) (y : Vector Byte Config.outLen) (w : Workspace) (s : State) : (resetBlock x y w s).inBuf = x := rfl
@[simp] theorem resetBlock_outBuf (x : Vector Byte Config.inLen) (y : Vector Byte Config.outLen) (w : Workspace) (s : State) : (resetBlock x y w s).outBuf = y := rfl
@[simp] theorem resetBlock_status (x : Vector Byte Config.inLen) (y : Vector Byte Config.outLen) (w : Workspace) (s : State) : (resetBlock x y w s).status = Status.zero := rfl
@[simp] theorem resetBlock_masken (x : Vector Byte Config.inLen) (y : Vector Byte Config.outLen) (w : Workspace) (s : State) : (resetBlock x y w s).masken = false := rfl
@[simp] theorem resetBlock_mask (x : Vector Byte Config.inLen) (y : Vector Byte Config.outLen) (w : Workspace) (s : State) : (resetBlock x y w s).mask = 0 := rfl
@[simp] theorem resetBlock_work (x : Vector Byte Config.inLen) (y : Vector Byte Config.outLen) (w : Workspace) (s : State) : (resetBlock x y w s).work = w := rfl
@[simp] theorem resetBlock_pending (x : Vector Byte Config.inLen) (y : Vector Byte Config.outLen) (w : Workspace) (s : State) : (resetBlock x y w s).pending = s.pending := rfl
@[simp] theorem resetBlock_replies (x : Vector Byte Config.inLen) (y : Vector Byte Config.outLen) (w : Workspace) (s : State) : (resetBlock x y w s).replies = s.replies := rfl

@[simp] theorem stageCommand_inBuf (w : Word) (s : State) : (stageCommand w s).inBuf = s.inBuf := rfl
@[simp] theorem stageCommand_outBuf (w : Word) (s : State) : (stageCommand w s).outBuf = s.outBuf := rfl
@[simp] theorem stageCommand_status (w : Word) (s : State) : (stageCommand w s).status = s.status := rfl
@[simp] theorem stageCommand_masken (w : Word) (s : State) : (stageCommand w s).masken = s.masken := rfl
@[simp] theorem stageCommand_mask (w : Word) (s : State) : (stageCommand w s).mask = s.mask := rfl
@[simp] theorem stageCommand_work (w : Word) (s : State) : (stageCommand w s).work = s.work := rfl
@[simp] theorem stageCommand_pending (w : Word) (s : State) : (stageCommand w s).pending = commandAccess w :: s.pending := rfl
@[simp] theorem stageCommand_replies (w : Word) (s : State) : (stageCommand w s).replies = s.replies := rfl

end Sys2Proof.Machine
end

