-- ==== Sys2Proof/Laws/Ops.lean ====
section
/-! SUPPORT. For each shared operation, one lemma that says everything it does: storing to `OUT`, the command frame,
raising an error, reading a register, writing a register, and performing the next access. -/

namespace Sys2Proof.Machine

/-- `storeFrom` writes `bs` from index `i` on and nothing else. -/
theorem storeFrom_getElem {n : Nat} (bs : List Byte) (v : Vector Byte n) (i k : Nat) (hk : k < n) :
    (storeFrom v i bs)[k] = if i ≤ k then bs.getD (k - i) v[k] else v[k] := by
  induction bs generalizing v i with
  | nil => simp [storeFrom]
  | cons b bs ih =>
    rw [storeFrom, ih]
    rcases Nat.lt_trichotomy i k with h | h | h
    · have h1 : k - i = (k - (i + 1)) + 1 := by omega
      have hne : i ≠ k := by omega
      simp [h1, show i + 1 ≤ k from h, show i ≤ k by omega, hne]
    · subst h; simp
    · have hne : i ≠ k := by omega
      simp [show ¬ i ≤ k by omega, show ¬ i + 1 ≤ k by omega, hne]

/-- `OUT[k]` after `writeOut bs`: the byte of `bs`, or the old byte beyond its end (R11, R75). -/
theorem writeOut_getElem (bs : List Byte) (s : State) (k : Nat) (hk : k < Config.outLen) :
    (writeOut bs s).outBuf[k] = bs.getD k s.outBuf[k] := by
  simp only [writeOut_outBuf]
  rw [storeFrom_getElem bs s.outBuf 0 k hk]
  simp

/-- The frame of a command: what it answers, and the flags its body starts from (R16). -/
theorem commandFrame_eq (body : State → State) (s : State) :
    commandFrame body s = .next (setValid (body (clearFlags s))) := rfl

/-- Raising an error inside the frame: the error code, `VALID`, and nothing else (R171). -/
theorem commandFrame_raiseError (e : ErrCode) (s : State) :
    commandFrame (raiseError e) s = .next { s with status := { Status.zero with valid := true, err := e } } := rfl

/-- The frame hides the status a command finds (R13). -/
theorem clearFlags_setStatus (s : State) (st : Status) (h : st.valid = s.status.valid) :
    clearFlags { s with status := st } = clearFlags s := by
  simp [clearFlags, h]

/-- What a read that answers a next state does: it appends the register's value to the answers (R41). -/
theorem hostRead_next {index : BitVec 8} {width : BusWidth} {s t : State} (h : hostRead index width s = .next t) :
    ∃ r, regAt index = some r ∧ width = regWidth r ∧
      t = { s with replies := { reg := index, data := readReg s r } :: s.replies } := by
  unfold hostRead at h
  split at h
  · cases h
  · rename_i r hr
    split at h
    · rename_i hw
      cases h
      exact ⟨r, hr, hw, rfl⟩
    · cases h

/-- What a write that answers a next state does, register by register (R40). -/
theorem writeReg_next {r : Reg} {v : BusData} {s t : State} (h : writeReg r v s = .next t) :
    (∃ w, r = .cmd ∧ v = .word w ∧ runCommand w s = .next t) ∨
    (∃ w, r = .status ∧ v = .word w ∧ t = s) ∨
    (∃ w, r = .ctrl ∧ v = .word w ∧ t = writeCtrl w s) ∨
    (∃ w, r = .crcmask ∧ v = .word w ∧ t = writeCrcmask w s) ∨
    (∃ i b, r = .inReg i ∧ v = .byte b ∧ t = writeIn i b s) ∨
    (∃ i b, r = .outReg i ∧ v = .byte b ∧ t = s) := by
  cases r <;> cases v <;> simp only [writeReg] at h <;> first | (cases h; done) | (cases h; simp) | simp [h]

/-- What a step that answers a next state can be: idle, a write, a read, or the reset event (R10, R48). -/
theorem step_next {s t : State} (h : step s = .next t) :
    (s.pending = [] ∧ t = s) ∨
    (∃ index v rest, s.pending = .hostWrite index v :: rest ∧ hostWrite index v { s with pending := rest } = .next t) ∨
    (∃ index width rest, s.pending = .hostRead index width :: rest ∧
      hostRead index width { s with pending := rest } = .next t) ∨
    (∃ x y w rest, s.pending = .resetEvent x y w :: rest ∧ t = resetBlock x y w { s with pending := rest }) := by
  unfold step performNext at h
  split at h
  · rename_i hp
    cases h
    exact .inl ⟨hp, rfl⟩
  · rename_i a rest hp
    cases a with
    | hostWrite index v => exact .inr (.inl ⟨index, v, rest, hp, h⟩)
    | hostRead index width => exact .inr (.inr (.inl ⟨index, width, rest, hp, h⟩))
    | resetEvent x y w =>
      simp only [performAccess] at h
      cases h
      exact .inr (.inr (.inr ⟨x, y, w, rest, hp, rfl⟩))

end Sys2Proof.Machine
end

