-- ==== Sys2Proof/Laws/Commands.lean ====
section
/-! SUPPORT. Each meaning as one equation per path: what `exec` answers, over the shared operations. -/

namespace Sys2Proof.Machine

theorem exec_gfmul (a b : Byte) (s : State) :
    exec (.gfmul a b) s = .next (setValid (writeOut [gfMul fieldPoly a b] (clearFlags s))) := rfl

theorem exec_gfinv_zero (s : State) : exec (.gfinv 0) s = .next (setValid (raiseError .invZero (clearFlags s))) := by
  simp [exec, execGfinv, commandFrame]

theorem exec_gfinv_some {a v : Byte} (h : gfInv fieldPoly a = some v) (s : State) :
    exec (.gfinv a) s = .next (setValid (writeOut [v] (clearFlags s))) := by
  simp [exec, execGfinv, commandFrame, h]

theorem exec_rsenc_length {len : Byte} (h : len.toNat ≠ 9) (s : State) :
    exec (.rsenc len) s = .next (setValid (raiseError .invalidLength (clearFlags s))) := by
  simp [exec, execRsenc, commandFrame, h]

theorem exec_rssyn_length {len : Byte} (h : len.toNat ≠ 12) (s : State) :
    exec (.rssyn len) s = .next (setValid (raiseError .invalidLength (clearFlags s))) := by
  simp [exec, execRssyn, commandFrame, h]

theorem exec_crccomp_length {len : Byte} (h : 32 < len.toNat) (s : State) :
    exec (.crccomp len) s = .next (setValid (raiseError .invalidLength (clearFlags s))) := by
  simp [exec, execCrccomp, commandFrame, h]

theorem exec_crcvfy_length {len : Byte} (h : len.toNat < 2 ∨ 32 < len.toNat) (s : State) :
    exec (.crcvfy len) s = .next (setValid (raiseError .invalidLength (clearFlags s))) := by
  simp only [exec, execCrcvfy, commandFrame]
  rw [if_pos h]

end Sys2Proof.Machine
end

