-- ==== Sys2Proof/Laws/PerInstr.lean ====
section
/-! SUPPORT. The family `ReservedBitsClear`: the word of every command has its must-be-zero bits clear, one lemma per
constructor (spec/30_encoding.md R71, R73). -/

namespace Sys2Proof.Laws

/-- A word of format G keeps out of the bits above its fields (R61). -/
theorem formatWord_high (b a op : Byte) : formatWord b a op &&& 0xFF000000 = 0 := by
  apply BitVec.eq_of_getLsbD_eq
  intro i hi
  rcases Nat.lt_or_ge i 24 with h | h
  · have : (0xFF000000 : Word).getLsbD i = false := by
      interval_cases i <;> rfl
    rw [BitVec.getLsbD_and, this]
    simp
  · simp [formatWord, BitVec.getLsbD_or, BitVec.getLsbD_and, BitVec.getLsbD_shiftLeft, BitVec.getLsbD_setWidth,
      BitVec.getLsbD_of_ge b (i - 16) (by omega), BitVec.getLsbD_of_ge a (i - 8) (by omega),
      BitVec.getLsbD_of_ge op i (by omega)]

/-- A word whose `b` field is zero keeps out of the upper half (R62). -/
theorem formatWord_upper (a op : Byte) : formatWord 0 a op &&& 0xFFFF0000 = 0 := by
  apply BitVec.eq_of_getLsbD_eq
  intro i hi
  rcases Nat.lt_or_ge i 16 with h | h
  · have : (0xFFFF0000 : Word).getLsbD i = false := by
      interval_cases i <;> rfl
    rw [BitVec.getLsbD_and, this]
    simp
  · simp [formatWord, BitVec.getLsbD_or, BitVec.getLsbD_and, BitVec.getLsbD_shiftLeft, BitVec.getLsbD_setWidth,
      BitVec.getLsbD_of_ge a (i - 8) (by omega), BitVec.getLsbD_of_ge op i (by omega)]

namespace ReservedBitsClear

/-- The command's word has no must-be-zero bit set. -/
def Statement (i : Instr) : Prop := i.wellFormed = true

theorem gfmul (a b : Byte) : Statement (.gfmul a b) := by
  simpa [Statement, Instr.wellFormed, encode, Instr.opcode, Opcode.mbz] using formatWord_high b a 0x01

theorem gfinv (a : Byte) : Statement (.gfinv a) := by
  simpa [Statement, Instr.wellFormed, encode, Instr.opcode, Opcode.mbz] using formatWord_upper a 0x02

theorem pmul : Statement .pmul := by
  show Instr.wellFormed .pmul = true
  decide

theorem rsenc (len : Byte) : Statement (.rsenc len) := by
  simpa [Statement, Instr.wellFormed, encode, Instr.opcode, Opcode.mbz] using formatWord_upper len 0x10

theorem rssyn (len : Byte) : Statement (.rssyn len) := by
  simpa [Statement, Instr.wellFormed, encode, Instr.opcode, Opcode.mbz] using formatWord_upper len 0x11

theorem rsdec (len : Byte) : Statement (.rsdec len) := by
  simpa [Statement, Instr.wellFormed, encode, Instr.opcode, Opcode.mbz] using formatWord_upper len 0x12

theorem crccomp (len : Byte) : Statement (.crccomp len) := by
  simpa [Statement, Instr.wellFormed, encode, Instr.opcode, Opcode.mbz] using formatWord_upper len 0x20

theorem crcvfy (len : Byte) : Statement (.crcvfy len) := by
  simpa [Statement, Instr.wellFormed, encode, Instr.opcode, Opcode.mbz] using formatWord_upper len 0x21

end ReservedBitsClear

end Sys2Proof.Laws
end

