-- ==== Sys2Proof/Tests/Slice0.lean ====
section
/-! SUPPORT. The model's own tests. Expected results are the spec's (spec/95_test_vectors.md, worked examples of the rules) or
written out by hand from an encoding. The `witness_` theorems show states and operands that meet the hypotheses of the
statements in Certificates/Slice0/Obligations.lean. -/

namespace Sys2Proof.Tests

open Sys2Proof.Machine Sys2Proof.Safety

/-! ### Helpers -/

/-- The reset state with accesses waiting. -/
def portState (as : List Access) : State := { State.reset with pending := as }

/-- The reset state with bytes in `IN` from index 0 on and a command word waiting. -/
def wordState (bytes : List Byte) (w : Word) : State :=
  { State.reset with inBuf := storeFrom State.reset.inBuf 0 bytes, pending := [.hostWrite 0x00 (.word w)] }

/-- The first `n` bytes of `OUT` and the word of `STATUS` after one step. -/
def after (n : Nat) (s : State) : Option (List Byte × Word) :=
  match step s with
  | .next t => some (t.outBuf.toList.take n, statusWord t.status)
  | _ => none

/-- The name of a refusal, where a step is refused. -/
def refusal (s : State) : Option Refusal :=
  match step s with
  | .refused r => some r
  | _ => none

/-! ### Decoding, each word written out from the formats of R61 to R63 -/

theorem test_decode_gfmul : decode 0b00000000_10000000_00000010_00000001#32 = .ok (.gfmul 0x02 0x80) := by decide
theorem test_decode_gfinv : decode 0b00000000_00000000_10001110_00000010#32 = .ok (.gfinv 0x8E) := by decide
theorem test_decode_pmul : decode 0b00000000_00000000_00000000_00000011#32 = .ok .pmul := by decide
theorem test_decode_rsenc : decode 0b00000000_00000000_00001001_00010000#32 = .ok (.rsenc 9) := by decide
theorem test_decode_rssyn : decode 0b00000000_00000000_00001100_00010001#32 = .ok (.rssyn 12) := by decide
theorem test_decode_rsdec : decode 0b00000000_00000000_00001100_00010010#32 = .ok (.rsdec 12) := by decide
theorem test_decode_crccomp : decode 0b00000000_00000000_00001010_00100000#32 = .ok (.crccomp 10) := by decide
theorem test_decode_crcvfy : decode 0b00000000_00000000_11111111_00100001#32 = .ok (.crcvfy 255) := by decide
theorem test_decode_zero_word_is_illegal : decode 0 = .error .illegalOpcode := by decide
theorem test_decode_illegal_wins_over_reserved : decode 0xFF000013 = .error .illegalOpcode := by decide
theorem test_decode_gfmul_bit24 : decode 0x01020301 = .error .reservedNonzero := by decide
theorem test_decode_gfinv_b_field : decode 0x00010202 = .error .reservedNonzero := by decide
theorem test_decode_pmul_bit8 : decode 0x00000103 = .error .reservedNonzero := by decide
theorem test_encode_examples : encode (.gfmul 0x02 0x80) = 0x00800201 ∧ encode (.crcvfy 12) = 0x00000C21 := by decide
theorem test_table_word : decodeTableWord 32 0x00000910 = some (.rsenc 9) ∧ decodeTableWord 8 0xFF03 = some .pmul := by decide

/-! ### Well-formedness: each check refuses an ill-formed term -/

theorem test_wellformed_word : wordWellFormed 0x00800201 = true ∧ wordWellFormed 0x00000000 = false ∧
    wordWellFormed 0x00010202 = false := by decide
theorem test_wellformed_write : accessWellFormed (.hostWrite 0x02 (.word 1)) = true ∧
    accessWellFormed (.hostWrite 0x02 (.byte 1)) = false ∧ accessWellFormed (.hostWrite 0x04 (.word 1)) = false := by decide
theorem test_wellformed_read : accessWellFormed (.hostRead 0x8C .byte) = true ∧
    accessWellFormed (.hostRead 0x8C .word) = false ∧ accessWellFormed (.hostRead 0x8D .byte) = false := by decide
theorem test_wellformed_field_poly : fieldPolyWellFormed fieldPoly = true ∧ fieldPolyWellFormed 0x11B = false := by decide
theorem test_wellformed_crc_alg : crcAlgWellFormed crcAlg = true ∧
    crcAlgWellFormed { crcAlg with poly := 0x1020 } = false := by decide
theorem test_wellformed_in_len : inLenWellFormed Config.inLen = true ∧ inLenWellFormed 13 = false ∧
    inLenWellFormed 65 = false := by decide
theorem test_wellformed_commands : Instr.wellFormed (.gfmul 0xFF 0xFF) = true ∧ Instr.wellFormed (.rsenc 0xFF) = true := by decide

/-! ### One step of each command (95_test_vectors.md sections 2 to 7) -/

theorem test_gfmul_reduces : after 1 (wordState [] 0x00FFFF01) = some ([0xE2], 0x00000001) := by decide +kernel
theorem test_gfmul_zero_operand : after 1 (wordState [] 0x00003701) = some ([0x00], 0x00000001) := by decide +kernel
theorem test_gfinv_value : after 1 (wordState [] 0x00005302) = some ([0x8C], 0x00000001) := by decide +kernel
theorem test_gfinv_of_zero : after 1 (wordState [] 0x00000002) = some ([0x00], 0x00000401) := by decide +kernel
theorem test_pmul_full_length :
    after 13 (wordState [0x01, 0x02, 0x03, 0x04, 0x05, 0x06, 0x07, 0x07, 0x06, 0x05, 0x04, 0x03, 0x02, 0x01] 0x00000003) =
      some ([0x07, 0x08, 0x00, 0x18, 0x07, 0x10, 0x00, 0x10, 0x07, 0x18, 0x00, 0x08, 0x07], 0x00000001) := by decide +kernel
theorem test_rsenc_parity :
    after 12 (wordState [0xDE, 0xAD, 0xBE, 0xEF, 0x01, 0x02, 0x03, 0x65, 0x47] 0x00000910) =
      some ([0xDE, 0xAD, 0xBE, 0xEF, 0x01, 0x02, 0x03, 0x65, 0x47, 0xEF, 0x75, 0xC7], 0x00000001) := by decide +kernel
theorem test_rsenc_wrong_length : after 1 (wordState [0x11] 0x00000C10) = some ([0x00], 0x00000301) := by decide +kernel
theorem test_rssyn_byte0_error :
    after 3 (wordState [0x10, 0x22, 0x33, 0x44, 0x55, 0x66, 0x77, 0x88, 0x99, 0xB3, 0x23, 0xF2] 0x00000C11) =
      some ([0xE8, 0xEA, 0x27], 0x00000001) := by decide +kernel
theorem test_rssyn_codeword :
    after 3 (wordState [0x11, 0x22, 0x33, 0x44, 0x55, 0x66, 0x77, 0x88, 0x99, 0xB3, 0x23, 0xF2] 0x00000C11) =
      some ([0x00, 0x00, 0x00], 0x00000003) := by decide +kernel
theorem test_rsdec_two_equal_errors :
    after 12 (wordState [0x11, 0x22, 0x33, 0xA5, 0x55, 0x66, 0x77, 0x88, 0x78, 0xB3, 0x23, 0xF2] 0x00000C12) =
      some ([0x11, 0x22, 0x33, 0x44, 0x55, 0x66, 0x77, 0x88, 0x99, 0xB3, 0x23, 0xF2], 0x00000021) := by decide +kernel
theorem test_rsdec_three_roots :
    after 12 (wordState [0, 0, 0, 0, 0, 0, 0, 0, 0, 0x96, 0x53, 0xC4] 0x00000C12) =
      some ([0, 0, 0, 0, 0, 0, 0, 0, 0, 0x96, 0x53, 0xC4], 0x00000035) := by decide +kernel
theorem test_crccomp_check_value :
    after 2 (wordState [0x31, 0x32, 0x33, 0x34, 0x35, 0x36, 0x37, 0x38, 0x39] 0x00000920) =
      some ([0xCE, 0x3C], 0x00000001) := by decide +kernel
theorem test_crccomp_too_long : after 1 (wordState [] 0x00002120) = some ([0x00], 0x00000301) := by decide +kernel
theorem test_crcvfy_masked :
    after 2 { wordState [0x5A, 0x5A] 0x00000221 with masken := true, mask := 0xA5A5 } =
      some ([0x5A, 0x5A], 0x00000009) := by decide +kernel
theorem test_crcvfy_swapped_bytes :
    after 2 (wordState [0x11, 0x22, 0x33, 0x44, 0x55, 0x66, 0x77, 0x88, 0x99, 0xAA, 0x88, 0x27] 0x00000C21) =
      some ([0x27, 0x88], 0x00000001) := by decide +kernel

/-! ### The engines: check values of R150 for other CRC records, and the spec's other field polynomials (section 1) -/

theorem test_crc_reflected_record :
    crcF { crcAlg with init := 0xFFFF, refin := true, refout := true } [0x31, 0x32, 0x33, 0x34, 0x35, 0x36, 0x37, 0x38, 0x39] =
      0x906E := by decide +kernel
theorem test_crc_plain_record :
    crcF { crcAlg with init := 0xFFFF, xorout := 0 } [0x31, 0x32, 0x33, 0x34, 0x35, 0x36, 0x37, 0x38, 0x39] = 0x29B1 := by
  decide +kernel
theorem test_encoder_other_fields :
    (rsEncode 0x12B [0x11, 0x22, 0x33, 0x44, 0x55, 0x66, 0x77, 0x88, 0x99]).drop 9 = [0x5C, 0x0B, 0x7E] ∧
    (rsEncode 0x187 [0x11, 0x22, 0x33, 0x44, 0x55, 0x66, 0x77, 0x88, 0x99]).drop 9 = [0x42, 0xA5, 0x39] := by decide +kernel
theorem test_locator_of_class_b2 :
    (locator 0x11D [0x00, 0x02, 0x06, 0, 0, 0, 0]).lam = [0x01, 0x03, 0x02, 0, 0, 0, 0] := by decide +kernel

/-! ### Registers, reset, script -/

theorem test_write_ctrl_ignores_high_bits : (match step (portState [.hostWrite 0x02 (.word 0xFFFFFFFE)]) with
    | .next t => t.masken == false | _ => false) = true := by decide
theorem test_read_status : (match step (portState [.hostRead 0x01 .word]) with
    | .next t => t.replies == [{ reg := 0x01, data := .word 0 }] | _ => false) = true := by decide
theorem test_reserved_index : refusal (portState [.hostRead 0x60 .byte]) = some .reservedIndex := by decide
theorem test_wrong_width : refusal (portState [.hostWrite 0x40 (.word 0)]) = some .accessWidth := by decide
theorem test_script_setmask : expandLine (.setmask 0x9696) =
    [.hostWrite 0x03 (.word 0x00009696), .hostWrite 0x02 (.word 0x00000001)] := by decide
theorem test_script_ldin : expandLine (.ldin 9 [0xBC, 0x70]) =
    [.hostWrite 0x49 (.byte 0xBC), .hostWrite 0x4A (.byte 0x70)] := by decide
theorem test_script_pseudo : expandLine .rsdec = [.hostWrite 0x00 (.word 0x00000C12)] ∧
    expandLine (.rdout 11 2) = [.hostRead 0x8B .byte, .hostRead 0x8C .byte] := by decide
theorem test_first_instruction_after_reset :
    after 1 (State.reset.withFetchWord 32 0x00008E02) = some ([0x02], 0x00000001) := by decide +kernel

/-! ### Witnesses: command words and the register port -/

theorem witness_RejectedWordReportsItsErrorAlone :
    (0x00000000 : Word).extractLsb' 0 8 ∉ ([0x01, 0x02, 0x03, 0x10, 0x11, 0x12, 0x20, 0x21] : List Byte) ∧
    (0x01000001 : Word).extractLsb' 0 8 = Opcode.gfmul.byte ∧ (0x01000001 : Word) &&& Opcode.gfmul.mbz ≠ 0 := by decide
theorem witness_CommandErrorPriority :
    (0xFF000013 : Word).extractLsb' 0 8 ∉ ([0x01, 0x02, 0x03, 0x10, 0x11, 0x12, 0x20, 0x21] : List Byte) ∧
    (0x00010510 : Word).extractLsb' 0 8 = Opcode.rsenc.byte ∧ (0x00010510 : Word) &&& Opcode.rsenc.mbz ≠ 0 ∧
    (0x00000510 : Word) = encode (.rsenc 5) := by decide
theorem witness_ErrorCodesByCommand :
    (13 : Byte) ≠ 12 ∧ decode 0x00000022 = .error .illegalOpcode ∧ decode 0x80000C12 = .error .reservedNonzero := by decide
theorem witness_ErrorLeavesOnlyItsCode :
    ∃ t, performAccess (.hostWrite 0x00 (.word 0x00000002)) State.reset = .next t ∧ t.status.err ≠ .none :=
  ⟨_, rfl, by decide +kernel⟩
theorem witness_StepRunsTheDecodedCommand :
    (wordState [] 0x00000910).pending = [.hostWrite 0x00 (.word 0x00000910)] ∧ decode 0x00000910 = .ok (.rsenc 9) ∧
    (wordState [] 0x00000004).pending = [.hostWrite 0x00 (.word 0x00000004)] ∧
    decode 0x00000004 = .error .illegalOpcode ∧
    (wordState [] 0x00010202).pending = [.hostWrite 0x00 (.word 0x00010202)] ∧
    decode 0x00010202 = .error .reservedNonzero := by decide
theorem witness_IdleBlockHoldsItsState : State.reset.pending = [] := rfl
theorem witness_HostWriteEffects :
    decode 0x00000003 = .ok .pmul ∧ decode 0x000000FF = .error .illegalOpcode ∧
    (BitVec.ofNat 8 (0x40 + (31 : Fin 32).val) = 0x5F ∧ BitVec.ofNat 8 (0x80 + (12 : Fin 13).val) = 0x8C) ∧
    (4 ≤ (0x04 : BitVec 8).toNat ∧ (0x3F : BitVec 8).toNat < 0x40 ∧ 0x60 ≤ (0x60 : BitVec 8).toNat ∧
      (0x7F : BitVec 8).toNat < 0x80 ∧ 0x8D ≤ (0x8D : BitVec 8).toNat) := by decide
theorem witness_HostReadEffects :
    ∃ t, performAccess (.hostRead 0x8C .byte) State.reset = .next t := ⟨_, rfl⟩
theorem witness_StatusFieldsAndWhoSetsThem :
    ∃ t, exec (.crcvfy 2) (wordState [0xFF, 0xFF] 0) = .next t ∧ t.status.crcok = true := ⟨_, rfl, by decide +kernel⟩
/-- A flag of each kind set by its command (`RSSYN` of the zero word, `RSDEC` of a wrong length and of one error), and an
access that is neither a command nor a reset. -/
theorem witness_StatusFieldsAndWhoSetsThem_flags :
    (∃ t, exec (.rssyn 12) State.reset = .next t ∧ t.status.sz = true) ∧
    (∃ t, exec (.rsdec 11) State.reset = .next t ∧ t.status.unc = true) ∧
    (∃ t, exec (.rsdec 12) (wordState [0, 0, 0, 0, 0, 0, 0, 0, 0, 0xFF] 0) = .next t ∧ t.status.errcnt ≠ 0) ∧
    (∃ t, performAccess (.hostWrite 0x03 (.word 1)) State.reset = .next t) ∧
    isCommand (.hostWrite 0x03 (.word 1)) = false ∧ isReset (.hostWrite 0x03 (.word 1)) = false :=
  ⟨⟨_, rfl, by decide +kernel⟩, ⟨_, rfl, by decide +kernel⟩, ⟨_, rfl, by decide +kernel⟩, ⟨_, rfl⟩, rfl, rfl⟩
theorem witness_ReservedIndexIsRefused :
    refusal (portState [.hostRead 0x04 .word]) = some .reservedIndex ∧
    refusal (portState [.hostRead 0x3F .word]) = some .reservedIndex ∧
    refusal (portState [.hostWrite 0x7F (.byte 0)]) = some .reservedIndex ∧
    refusal (portState [.hostWrite 0x8D (.byte 0)]) = some .reservedIndex ∧
    refusal (portState [.hostWrite 0xFF (.byte 0)]) = some .reservedIndex := by decide
theorem witness_StepRefusesOnlyIllFormedAccesses :
    refusal (portState [.hostRead 0x40 .word]) = some .accessWidth ∧ (∃ t, step State.reset = .next t) := ⟨by decide, _, rfl⟩
theorem witness_ReadReturnsTheLatestWrite :
    ∃ t u v, step (portState [.hostWrite (BitVec.ofNat 8 (0x40 + (31 : Fin 32).val)) (.byte 7), .hostWrite 0x00 (.word 0),
        .hostRead (BitVec.ofNat 8 (0x40 + (31 : Fin 32).val)) .byte]) = .next t ∧ step t = .next u ∧ step u = .next v :=
  ⟨_, _, _, rfl, rfl, rfl⟩
theorem witness_ValidStaysSetUntilReset :
    ∃ t, step { portState [.hostRead 0x01 .word] with status := doneStatus } = .next t ∧ t.status.valid = true := ⟨_, rfl, rfl⟩
theorem witness_OnlyCommandsAndResetWriteResults :
    (∃ t, step (portState [.hostWrite 0x40 (.byte 1)]) = .next t) ∧ isReset (.hostWrite 0x40 (.byte 1)) = false ∧
    isCommand (.hostWrite 0x40 (.byte 1)) = false ∧ (∃ t, step (portState [.hostRead 0x40 .byte]) = .next t) ∧
    (∃ t, step (wordState [] 0) = .next t) ∧ isCommand (.hostWrite 0x00 (.word 0)) = true :=
  ⟨⟨_, rfl⟩, rfl, rfl, ⟨_, rfl⟩, ⟨_, rfl⟩, rfl⟩

/-! ### Witnesses: what commands read and write, and the invariants -/

theorem witness_CommandReadsOnlyWhatItNames :
    ∃ t t', exec (.rsenc 9) (wordState [1] 0) = .next t ∧
      exec (.rsenc 9) { wordState [1, 0, 0, 0, 0, 0, 0, 0, 0, 5] 0 with masken := true } = .next t' ∧
      (∀ k : Fin Config.inLen, k < inNamed (.rsenc 9) →
        (wordState [1] 0).inBuf[k] = (wordState [1, 0, 0, 0, 0, 0, 0, 0, 0, 5] 0).inBuf[k]) ∧
      readsMask (.rsenc 9) = false ∧ t.status.err = .none :=
  ⟨_, _, rfl, rfl, by decide +kernel, rfl, by decide +kernel⟩
theorem witness_WorkspaceNeverShows :
    SameButWork State.reset { State.reset with work := { Workspace.zero with crcacc := 1 } } := rfl
theorem witness_StepKeepsStateInv :
    StateInv (portState [.hostWrite 0x40 (.byte 1)]) ∧ ∃ t, step (portState [.hostWrite 0x40 (.byte 1)]) = .next t := by
  refine ⟨⟨?_, ?_, ?_⟩, _, rfl⟩
  · simp [statusCoherent, portState, State.reset, Status.zero]
  · simp [workShape, portState, State.reset, Workspace.zero]
  · simp [accessShape, portState]
theorem witness_ErrcntNeverExceedsThree :
    State.reset.status.errcnt.toNat ≤ 3 ∧ ∃ t, step State.reset = .next t := ⟨by decide, _, rfl⟩

/-! ### Witnesses: the engines and the commands' hypotheses -/

theorem witness_fieldPolys : (0x11D : BitVec 9) ∈ Config.fieldPolys ∧ (0x1F5 : BitVec 9) ∈ Config.fieldPolys := by decide
theorem witness_GfinvWritesTheInverse : (0xFF : Byte) ≠ 0 ∧
    (0x00010002 : Word).extractLsb' 0 8 = 0x02 ∧ (0x00010002 : Word).extractLsb' 16 16 ≠ 0 := by decide
theorem witness_reserved_bits :
    (0x80000001 : Word).extractLsb' 0 8 = 0x01 ∧ (0x80000001 : Word).extractLsb' 24 8 ≠ 0 ∧
    (0x00000103 : Word).extractLsb' 0 8 = 0x03 ∧ (0x00000103 : Word).extractLsb' 8 24 ≠ 0 ∧
    (0x00010910 : Word).extractLsb' 0 8 = 0x10 ∧ (0x00010910 : Word).extractLsb' 16 16 ≠ 0 ∧
    (0x00010C11 : Word).extractLsb' 0 8 = 0x11 ∧ (0x00010C11 : Word).extractLsb' 16 16 ≠ 0 ∧
    (0x80000C12 : Word).extractLsb' 0 8 = 0x12 ∧ (0x80000C12 : Word).extractLsb' 16 16 ≠ 0 ∧
    (0x00010020 : Word).extractLsb' 0 8 = 0x20 ∧ (0x00010020 : Word).extractLsb' 16 16 ≠ 0 ∧
    (0x00010221 : Word).extractLsb' 0 8 = 0x21 ∧ (0x00010221 : Word).extractLsb' 16 16 ≠ 0 := by decide
theorem witness_lengths : (8 : Byte) ≠ 9 ∧ (13 : Byte) ≠ 12 ∧ (0 : Byte).toNat ≤ Config.inLen ∧
    (32 : Byte).toNat ≤ Config.inLen ∧ Config.inLen < (33 : Byte).toNat ∧ (1 : Byte).toNat < 2 ∧
    2 ≤ (2 : Byte).toNat := by decide
theorem witness_polynomial_lengths : (List.replicate 7 (1 : Byte)).length = 7 ∧ (List.replicate 9 (1 : Byte)).length = 9 ∧
    (List.replicate 12 (1 : Byte)).length = 12 := by decide
theorem witness_LocatorClosedForm :
    (∃ S : Syndromes, S.s1 ≠ 0) ∧ (∃ S : Syndromes, S.s1 = 0 ∧ S.s2 ≠ 0) ∧
    (∃ S : Syndromes, S.s1 = 0 ∧ S.s2 = 0 ∧ S.s3 ≠ 0) :=
  ⟨⟨⟨1, 0, 0⟩, by decide⟩, ⟨⟨0, 1, 0⟩, by decide⟩, ⟨⟨0, 0, 1⟩, by decide⟩⟩
theorem witness_ChienSearchFindsAtMostThreeRoots :
    (⟨0, 0, 8⟩ : Syndromes) ≠ { s1 := 0, s2 := 0, s3 := 0 } ∧
    chienSearch 0x11D (locator 0x11D (⟨0, 0, 8⟩ : Syndromes).poly).lam = [171, 86, 1] := by decide +kernel
theorem witness_single_error : (List.replicate 9 (0 : Byte)).length = 9 ∧ (0 : Nat) < 12 ∧ (11 : Nat) < 12 ∧
    (0xFF : Byte) ≠ 0 ∧ (0 : Nat) < 11 := by decide
/-- Rows of 95_test_vectors.md section 5.4: class A1 in range and just out of range. -/
theorem witness_SingleRootClassIsCorrectedInRange :
    rsSyndromes 0x11D [0, 0, 0, 0, 0, 0, 0, 0, 0, 0x57, 0xB9, 0x2F] = ⟨0x01, 0xE8, 0xEA⟩ ∧
    gfMul 0x11D 0x01 0xEA = gfMul 0x11D 0xE8 0xE8 ∧
    rsSyndromes 0x11D [0, 0, 0, 0, 0, 0, 0, 0, 0, 0x6A, 0x43, 0x32] = ⟨0x01, 0xCD, 0x8F⟩ ∧
    gfMul 0x11D 0x01 0x8F = gfMul 0x11D 0xCD 0xCD := by decide +kernel
/-- Rows of 95_test_vectors.md section 5.4: classes A2, A3, B1 and both cases of C. -/
theorem witness_UncorrectedClassesReturnTheWordUnchanged :
    rsSyndromes 0x11D [0, 0, 0, 0, 0, 0, 0, 0, 0, 0xAB, 0xA7, 0xC4] = ⟨1, 0, 0⟩ ∧
    rsSyndromes 0x11D [0, 0, 0, 0, 0, 0, 0, 0, 0, 0x70, 0x47, 0x52] = ⟨1, 0, 1⟩ ∧
    rsSyndromes 0x11D [0, 0, 0, 0, 0, 0, 0, 0, 0, 0x70, 0x47, 0x53] = ⟨0, 1, 0⟩ ∧
    rsSyndromes 0x11D [0, 0, 0, 0, 0, 0, 0, 0, 0, 0xDB, 0xE0, 0x96] = ⟨0, 0, 1⟩ ∧
    rsSyndromes 0x11D [0, 0, 0, 0, 0, 0, 0, 0, 0, 0xAB, 0xDD, 0x31] = ⟨0, 0, 2⟩ := by decide +kernel
/-- Rows of 95_test_vectors.md section 5.4: class A4 and class B2, two roots in range. -/
theorem witness_TwoRootClassesAreCorrectedInRange :
    rsSyndromes 0x11D [0, 0, 0, 0, 0, 0, 0, 0, 0, 0, 0x01, 0x01] = ⟨0x03, 0x05, 0x09⟩ ∧
    gfMul 0x11D 0x03 0x09 ≠ gfMul 0x11D 0x05 0x05 ∧
    rsSyndromes 0x11D [0, 0, 0, 0, 0, 0, 0, 0, 0, 0, 0xF4, 0xF5] = ⟨0x00, 0x02, 0x06⟩ := by decide +kernel
/-- Rows of 95_test_vectors.md section 5.4: class A4 and class B2, no root and roots out of range. -/
theorem witness_TwoRootClassesAreCorrectedInRange_uncorrected :
    rsDecode 0x11D 12 [0x11, 0x22, 0x94, 0x44, 0x55, 0x00, 0x77, 0x88, 0x99, 0xB3, 0x23, 0xF2] =
      { codeword := some [0x11, 0x22, 0x94, 0x44, 0x55, 0x00, 0x77, 0x88, 0x99, 0xB3, 0x23, 0xF2], errorsFound := 0,
        uncorrectable := false, syndromesZero := false } ∧
    rsDecode 0x11D 12 [0xC2, 0xA8, 0x33, 0x44, 0x55, 0x66, 0x77, 0x88, 0x99, 0xB3, 0x23, 0xF2] =
      { codeword := some [0xC2, 0xA8, 0x33, 0x44, 0x55, 0x66, 0x77, 0x88, 0x99, 0xB3, 0x23, 0xF2], errorsFound := 2,
        uncorrectable := true, syndromesZero := false } ∧
    rsDecode 0x11D 12 [0, 0, 0, 0, 0, 0, 0, 0, 0, 0, 0x01, 0x02] =
      { codeword := some [0, 0, 0, 0, 0, 0, 0, 0, 0, 0, 0x01, 0x02], errorsFound := 0, uncorrectable := false,
        syndromesZero := false } ∧
    rsDecode 0x11D 12 [0, 0, 0, 0, 0, 0, 0, 0, 0, 0xAB, 0xA7, 0xC5] =
      { codeword := some [0, 0, 0, 0, 0, 0, 0, 0, 0, 0xAB, 0xA7, 0xC5], errorsFound := 2, uncorrectable := true,
        syndromesZero := false } := by decide +kernel
theorem witness_FieldLaws_cube : gfLog 0x11D 0x08 = some 3 ∧
    (((List.range 256).map (BitVec.ofNat 8)).filter fun a => gfMul 0x11D a (gfMul 0x11D a a) == 0x08).length = 3 := by
  decide +kernel
theorem witness_CorrectedOutputIsACodeword :
    rsDecode 0x11D 12 [0, 0, 0, 0, 0, 0, 0, 0, 0, 0xCF, 0x11, 0x38] =
      { codeword := some [0, 0, 0, 0, 0, 0, 0, 0xD8, 0, 0xCF, 0x11, 0x38], errorsFound := 1, uncorrectable := false,
        syndromesZero := false } := by decide +kernel
theorem witness_ChecksumIsAffineAndSeesEveryBit :
    ([0x00, 0xFF] : List Byte).length = ([0x01, 0x80] : List Byte).length ∧ crcAlg.poly.getLsbD 0 = true ∧
    1 < ([0x00, 0xFF] : List Byte).length ∧ (7 : Nat) < 8 := by decide
theorem witness_CrcvfyDetectsEveryBitChange :
    ∃ t, exec (.crcvfy 3) (wordState [0xFF, 0xE1, 0x0F] 0) = .next t ∧ t.status.crcok = true ∧
      2 ≤ (3 : Byte).toNat ∧ (3 : Byte).toNat ≤ Config.inLen ∧ (2 : Fin Config.inLen) < (3 : Byte).toNat :=
  ⟨_, rfl, by decide +kernel, by decide, by decide, by decide⟩
theorem witness_MaskedTrailingBytesVerify :
    ((0x5A : Byte).setWidth 16 <<< 8) ||| (0x5A : Byte).setWidth 16 = crcF crcAlg [] ^^^ (0xA5A5 : Half) := by decide +kernel

end Sys2Proof.Tests
end

section
/-! SUPPORT. Multiplication in GF(256) for every admissible field polynomial: a nonzero byte is a power of `α`, and
multiplying by `α^n` is `n` doublings, which respect exclusive-or. The laws of the field follow (spec/40_gf_engine.md
R92, R95, R101). -/

namespace Sys2Proof.Proofs

open Sys2Proof.Machine Sys2Proof.Safety

/-- What the ROMs of the 16 fields hold: each `EXP` entry is the double of the one before, around the cycle of 255, and
`LOG` undoes `EXP` (R92). -/
theorem rom_cycle : ∀ fp ∈ Config.fieldPolys, gfExp fp 255 = gfExp fp 0 ∧
    ∀ i < 255, gfExp fp (i + 1) = xtime fp (gfExp fp i) ∧ gfLog fp (gfExp fp i) = some i := by decide +kernel

@[simp] theorem xtime_zero (fp : BitVec 9) : xtime fp 0#8 = 0#8 := rfl

/-- Doubling on the byte alone: bit 7 is the bit that comes out of the shift. -/
theorem xtime_eq (fp : BitVec 9) (x : Byte) :
    xtime fp x = x <<< 1 ^^^ if x.getLsbD 7 then fp.setWidth 8 else 0#8 := by
  have hout : (x.setWidth 9 <<< 1).getLsbD 8 = x.getLsbD 7 := by simp
  have hshift : (x.setWidth 9 <<< 1).setWidth 8 = x <<< 1 := by
    ext i hi
    simp
  simp only [xtime, hout]
  split
  · rw [BitVec.setWidth_xor, hshift]
  · rw [hshift, BitVec.xor_zero]

/-- Doubling respects exclusive-or: a reduction happens in the sum exactly when it happens in one of the two. -/
theorem xtime_xor (fp : BitVec 9) (x y : Byte) : xtime fp (x ^^^ y) = xtime fp x ^^^ xtime fp y := by
  have hreduce (a b : Bool) (z : Byte) :
      (if (a ^^ b) = true then z else 0#8) = (if a then z else 0#8) ^^^ (if b then z else 0#8) := by
    cases a <;> cases b <;> simp
  rw [xtime_eq, xtime_eq, xtime_eq, BitVec.shiftLeft_xor_distrib, BitVec.getLsbD_xor, hreduce]
  ac_rfl

theorem gfMul_comm (fp : BitVec 9) (a b : Byte) : gfMul fp a b = gfMul fp b a := by
  unfold gfMul
  cases gfLog fp a <;> cases gfLog fp b <;> simp [Nat.add_comm]

section Laws

variable {fp : BitVec 9} (hfp : fp ∈ Config.fieldPolys)
include hfp

theorem gfLog_gfExp_mod (n : Nat) : gfLog fp (gfExp fp (n % 255)) = some (n % 255) :=
  ((rom_cycle fp hfp).2 _ (Nat.mod_lt n (by decide))).2

theorem gfExp_mod_succ (n : Nat) : gfExp fp ((n + 1) % 255) = xtime fp (gfExp fp (n % 255)) := by
  obtain ⟨hwrap, hrow⟩ := rom_cycle fp hfp
  rw [← (hrow _ (Nat.mod_lt n (by decide))).1]
  rcases Nat.lt_or_ge (n % 255 + 1) 255 with h | h
  · rw [show (n + 1) % 255 = n % 255 + 1 by omega]
  · rw [show (n + 1) % 255 = 0 by omega, show n % 255 + 1 = 255 by omega, hwrap]

/-- Every nonzero byte is a power of `α`: the 255 powers are distinct and none is zero (R92). -/
theorem exists_gfExp_of_ne_zero {a : Byte} (ha : a ≠ 0#8) : ∃ n, a = gfExp fp (n % 255) := by
  have hmem : ∀ n ∈ Finset.range 255, (gfExp fp (n % 255)).toNat ∈ Finset.Ico 1 256 := by
    intro n _
    have hne : gfExp fp (n % 255) ≠ 0#8 := by
      intro h0
      simpa [h0] using gfLog_gfExp_mod hfp n
    have hlt := (gfExp fp (n % 255)).isLt
    have hpos : (gfExp fp (n % 255)).toNat ≠ 0 := fun h => hne (BitVec.eq_of_toNat_eq h)
    simp only [Finset.mem_Ico]
    omega
  have hinj : Set.InjOn (fun n => (gfExp fp (n % 255)).toNat) (Finset.range 255) := by
    intro m hm n hn h
    have hlog := gfLog_gfExp_mod hfp m
    rw [BitVec.eq_of_toNat_eq h, gfLog_gfExp_mod hfp n] at hlog
    simp only [Finset.coe_range, Set.mem_Iio] at hm hn
    simp only [Option.some.injEq] at hlog
    omega
  have ha' : a.toNat ∈ Finset.Ico 1 256 := by
    have hlt := a.isLt
    have hpos : a.toNat ≠ 0 := fun h => ha (BitVec.eq_of_toNat_eq h)
    simp only [Finset.mem_Ico]
    omega
  obtain ⟨n, _, hn⟩ := Finset.surjOn_of_injOn_of_card_le _ hmem hinj (by simp) ha'
  exact ⟨n, (BitVec.eq_of_toNat_eq hn).symm⟩

/-- Multiplying by `α^n` is doubling `n` times (R101). -/
theorem gfMul_gfExp_mod (n : Nat) (b : Byte) : gfMul fp (gfExp fp (n % 255)) b = (xtime fp)^[n] b := by
  by_cases hb : b = 0#8
  · rw [hb, gfMul_zero_right, Function.iterate_fixed (xtime_zero fp)]
  · obtain ⟨m, rfl⟩ := exists_gfExp_of_ne_zero hfp hb
    rw [gfMul_of_log (gfLog_gfExp_mod hfp n) (gfLog_gfExp_mod hfp m), ← Nat.add_mod]
    induction n with
    | zero => simp
    | succ n ih => rw [Function.iterate_succ_apply', ← ih, ← gfExp_mod_succ hfp, Nat.succ_add]

/-- Multiplication by a fixed byte is zero or some number of doublings. -/
theorem gfMul_eq_zero_or_iterate (a : Byte) :
    (∀ b, gfMul fp a b = 0#8) ∨ ∃ n, ∀ b, gfMul fp a b = (xtime fp)^[n] b := by
  by_cases ha : a = 0#8
  · exact .inl fun b => by rw [ha, gfMul_zero_left]
  · obtain ⟨n, rfl⟩ := exists_gfExp_of_ne_zero hfp ha
    exact .inr ⟨n, gfMul_gfExp_mod hfp n⟩

theorem gfMul_left_comm (a b c : Byte) : gfMul fp a (gfMul fp b c) = gfMul fp b (gfMul fp a c) := by
  rcases gfMul_eq_zero_or_iterate hfp a with ha | ⟨m, ha⟩
  · rw [ha, ha, gfMul_zero_right]
  · rcases gfMul_eq_zero_or_iterate hfp b with hb | ⟨n, hb⟩
    · rw [hb, hb, gfMul_zero_right]
    · rw [ha, hb, ha, hb, ← Function.iterate_add_apply, ← Function.iterate_add_apply, Nat.add_comm]

/-- Multiplication distributes over exclusive-or (R101). -/
theorem gfMul_xor_right (a b c : Byte) : gfMul fp a (b ^^^ c) = gfMul fp a b ^^^ gfMul fp a c := by
  rcases gfMul_eq_zero_or_iterate hfp a with ha | ⟨n, ha⟩
  · rw [ha, ha, ha, BitVec.xor_zero]
  · rw [ha, ha, ha, Function.Semiconj₂.iterate (xtime_xor fp) n]

theorem gfMul_xor_left (a b c : Byte) : gfMul fp (a ^^^ b) c = gfMul fp a c ^^^ gfMul fp b c := by
  rw [gfMul_comm, gfMul_xor_right hfp, gfMul_comm fp c, gfMul_comm fp c]

/-- There are no zero divisors. -/
theorem gfMul_eq_zero {a b : Byte} (h : gfMul fp a b = 0#8) : a = 0#8 ∨ b = 0#8 := by
  by_contra! hne
  obtain ⟨m, rfl⟩ := exists_gfExp_of_ne_zero hfp hne.1
  obtain ⟨n, rfl⟩ := exists_gfExp_of_ne_zero hfp hne.2
  rw [gfMul_of_log (gfLog_gfExp_mod hfp m) (gfLog_gfExp_mod hfp n)] at h
  have hlog := gfLog_gfExp_mod hfp (m % 255 + n % 255)
  rw [h, gfLog_zero] at hlog
  cases hlog

/-- Multiplication by a fixed byte goes through a sum. -/
theorem gfMul_xorSum (a : Byte) (bs : List Byte) : gfMul fp a (xorSum bs) = xorSum (bs.map (gfMul fp a)) := by
  induction bs with
  | nil => exact gfMul_zero_right fp a
  | cons b bs ih => rw [xorSum_cons, gfMul_xor_right hfp, ih, List.map_cons, xorSum_cons]

end Laws

end Sys2Proof.Proofs
end

section
/-! SUPPORT. A polynomial over GF(256) that is not zero everywhere has fewer roots than coefficients, since every root
divides out (spec/42_rs_decode.md R132). -/

namespace Sys2Proof.Proofs

open Sys2Proof.Machine Sys2Proof.Safety

theorem evalPoly_cons {fp : BitVec 9} (c : Byte) (cs : List Byte) (x : Byte) :
    evalPoly fp (c :: cs) x = c ^^^ gfMul fp x (evalPoly fp cs x) := rfl

/-- In a sum, what is added twice drops out. -/
theorem xor_telescope (b u v w : Byte) : (b ^^^ u) ^^^ (b ^^^ v) = (w ^^^ v) ^^^ (u ^^^ w) := by
  calc (b ^^^ u) ^^^ (b ^^^ v) = (b ^^^ b) ^^^ (u ^^^ v) := by ac_rfl
    _ = (w ^^^ w) ^^^ (u ^^^ v) := by rw [BitVec.xor_self, BitVec.xor_self]
    _ = (w ^^^ v) ^^^ (u ^^^ w) := by ac_rfl

/-- The quotient of a polynomial, lowest degree first, by `x + r`: coefficient `k` is the value at `r` of the coefficients
above `k`. -/
def deflate (fp : BitVec 9) (r : Byte) : List Byte → List Byte
  | [] => []
  | [_] => []
  | _ :: c :: cs => evalPoly fp (c :: cs) r :: deflate fp r (c :: cs)

@[simp] theorem deflate_length (fp : BitVec 9) (r : Byte) (p : List Byte) :
    (deflate fp r p).length = p.length - 1 := by
  fun_induction deflate with
  | case1 => rfl
  | case2 => rfl
  | case3 _ c cs ih => simp [ih]

/-- Coefficients that are zero from index `n` on do not count. -/
theorem evalPoly_take {fp : BitVec 9} {p : List Byte} {n : Nat} (h : ∀ k, n ≤ k → coeff p k = 0#8) (x : Byte) :
    evalPoly fp (p.take n) x = evalPoly fp p x := by
  induction p generalizing n with
  | nil => simp
  | cons c cs ih =>
    cases n with
    | zero =>
      have hc : c = 0#8 := h 0 (Nat.le_refl 0)
      have hcs : evalPoly fp cs x = 0#8 := (ih (n := 0) fun k _ => h (k + 1) (Nat.zero_le _)).symm
      rw [evalPoly_cons, hcs, hc, gfMul_zero_right]
      rfl
    | succ n =>
      rw [List.take_succ_cons, evalPoly_cons, evalPoly_cons, ih fun k hk => h (k + 1) (Nat.succ_le_succ hk)]

section Roots

variable {fp : BitVec 9} (hfp : fp ∈ Config.fieldPolys)
include hfp

/-- The factor theorem. -/
theorem evalPoly_xor_evalPoly (p : List Byte) (x r : Byte) :
    evalPoly fp p x ^^^ evalPoly fp p r = gfMul fp (x ^^^ r) (evalPoly fp (deflate fp r p) x) := by
  fun_induction deflate with
  | case1 => simp [evalPoly]
  | case2 => simp [evalPoly]
  | case3 b c cs ih =>
    have hquot : gfMul fp (x ^^^ r) (gfMul fp x (evalPoly fp (deflate fp r (c :: cs)) x)) =
        gfMul fp x (evalPoly fp (c :: cs) x) ^^^ gfMul fp x (evalPoly fp (c :: cs) r) := by
      rw [gfMul_left_comm hfp, ← ih, gfMul_xor_right hfp]
    rw [evalPoly_cons b, evalPoly_cons b, evalPoly_cons _ (deflate _ _ _), gfMul_xor_right hfp, hquot,
      gfMul_xor_left hfp]
    exact xor_telescope b _ _ _

/-- A polynomial with a nonzero value somewhere has fewer roots than coefficients. -/
theorem roots_length_lt {p rs : List Byte} {y : Byte} (hy : evalPoly fp p y ≠ 0#8) (hnodup : rs.Nodup)
    (hroot : ∀ r ∈ rs, evalPoly fp p r = 0#8) : rs.length < p.length := by
  induction rs generalizing p with
  | nil =>
    rw [List.length_nil, List.length_pos_iff]
    rintro rfl
    exact hy rfl
  | cons r rs ih =>
    obtain ⟨hr, hrs⟩ := List.nodup_cons.mp hnodup
    have hr0 : evalPoly fp p r = 0#8 := hroot r List.mem_cons_self
    have hfactor (x : Byte) : evalPoly fp p x = gfMul fp (x ^^^ r) (evalPoly fp (deflate fp r p) x) := by
      rw [← evalPoly_xor_evalPoly hfp, hr0, BitVec.xor_zero]
    have hq : evalPoly fp (deflate fp r p) y ≠ 0#8 := by
      intro h
      rw [hfactor, h, gfMul_zero_right] at hy
      exact hy rfl
    have hlt := ih hq hrs fun s hs => by
      have hs0 := hroot s (List.mem_cons_of_mem r hs)
      rw [hfactor] at hs0
      refine (gfMul_eq_zero hfp hs0).resolve_left fun h => hr ?_
      rwa [← BitVec.xor_eq_zero_iff.mp h]
    rw [deflate_length] at hlt
    rw [List.length_cons]
    omega

/-- The value at `α^r` as the sum of its terms (R132). -/
theorem evalPoly_gfExp_mod (p : List Byte) (r : Nat) :
    evalPoly fp p (gfExp fp (r % 255)) =
      xorSum ((List.range p.length).map fun k => gfMul fp (gfExp fp ((k * r) % 255)) (coeff p k)) := by
  induction p with
  | nil => rfl
  | cons c cs ih =>
    have hterm (k : Nat) : gfMul fp (gfExp fp (r % 255)) (gfMul fp (gfExp fp ((k * r) % 255)) (coeff cs k)) =
        gfMul fp (gfExp fp (((k + 1) * r) % 255)) (coeff (c :: cs) (k + 1)) := by
      rw [gfMul_gfExp_mod hfp, gfMul_gfExp_mod hfp, gfMul_gfExp_mod hfp, ← Function.iterate_add_apply, Nat.succ_mul,
        Nat.add_comm]
      rfl
    have hconst : gfMul fp (gfExp fp ((0 * r) % 255)) (coeff (c :: cs) 0) = c := by
      rw [gfMul_gfExp_mod hfp, Nat.zero_mul]
      rfl
    rw [evalPoly_cons, ih, gfMul_xorSum hfp, List.length_cons, List.range_succ_eq_map, List.map_cons, xorSum_cons,
      hconst, List.map_map, List.map_map]
    simp only [Function.comp_def, hterm]

end Roots

end Sys2Proof.Proofs
end

section
/-! SUPPORT. The decoder finds at most three positions: three passes of the iteration leave a locator of degree at most
three with constant term 1, and the Chien search lists its roots among the distinct powers of `α` (spec/42_rs_decode.md
R126, R127, R132). -/

namespace Sys2Proof.Proofs

open Sys2Proof.Machine Sys2Proof.Safety

theorem coeff_map_range (f : Nat → Byte) (n k : Nat) :
    coeff ((List.range n).map f) k = if k < n then f k else 0#8 := by
  unfold coeff
  split <;> simp_all

theorem coeff_take (p : List Byte) (n k : Nat) : coeff (p.take n) k = if k < n then coeff p k else 0#8 := by
  unfold coeff
  split <;> simp_all

/-- What holds after `n` passes: the locator has seven coefficients, constant term 1 and degree at most `n`, and the
auxiliary polynomial has no constant term and degree at most `n + 1`. -/
structure LocatorBound (n : Nat) (st : LocatorState) : Prop where
  length_lam : st.lam.length = 7
  lam_zero : coeff st.lam 0 = 1#8
  aux_zero : coeff st.aux 0 = 0#8
  lam_high : ∀ k, n < k → coeff st.lam k = 0#8
  aux_high : ∀ k, n + 1 < k → coeff st.aux k = 0#8

theorem locatorStart_bound : LocatorBound 0 locatorStart where
  length_lam := rfl
  lam_zero := rfl
  aux_zero := rfl
  lam_high k hk := by
    rcases Nat.lt_or_ge k 7 with h | h
    · interval_cases k <;> rfl
    · exact List.getD_eq_default _ _ h
  aux_high k hk := by
    rcases Nat.lt_or_ge k 7 with h | h
    · interval_cases k <;> rfl
    · exact List.getD_eq_default _ _ h

/-- `LAM + d·AUX` has the locator's constant term, and the degree bound of the next pass. -/
theorem locatorNew_bound {n : Nat} {st : LocatorState} (h : LocatorBound n st) (fp : BitVec 9) (d : Byte) :
    coeff (locatorNew fp st d) 0 = 1#8 ∧ ∀ k, n + 1 < k → coeff (locatorNew fp st d) k = 0#8 := by
  unfold locatorNew
  refine ⟨?_, fun k hk => ?_⟩
  · simp [coeff_map_range, h.lam_zero, h.aux_zero]
  · simp [coeff_map_range, h.lam_high k (by omega), h.aux_high k hk]

/-- The shift at the end of a pass takes the auxiliary polynomial one degree up. -/
theorem shiftAux_bound {n : Nat} {st : LocatorState} (hlen : st.lam.length = 7) (h0 : coeff st.lam 0 = 1#8)
    (hlam : ∀ k, n < k → coeff st.lam k = 0#8) (haux : ∀ k, n < k → coeff st.aux k = 0#8) :
    LocatorBound n (shiftAux st) where
  length_lam := hlen
  lam_zero := h0
  aux_zero := rfl
  lam_high := hlam
  aux_high k hk := by
    obtain ⟨j, rfl⟩ : ∃ j, k = j + 1 := ⟨k - 1, by omega⟩
    calc coeff (0 :: st.aux.take 6) (j + 1) = coeff (st.aux.take 6) j := rfl
      _ = 0#8 := by rw [coeff_take, haux j (by omega), ite_self]

theorem locatorPass_bound {n : Nat} {st : LocatorState} (h : LocatorBound n st) (fp : BitVec 9) (syn : List Byte)
    (m : Nat) : LocatorBound (n + 1) (locatorPass fp syn st m) := by
  unfold locatorPass locatorUpdate
  generalize discrepancy fp syn st m = d
  obtain ⟨hnew0, hnew⟩ := locatorNew_bound h fp d
  have hlam (k : Nat) (hk : n + 1 < k) : coeff st.lam k = 0#8 := h.lam_high k (by omega)
  split
  · exact shiftAux_bound h.length_lam h.lam_zero hlam h.aux_high
  · split
    · refine shiftAux_bound (locatorNew_length fp st d) hnew0 hnew fun k hk => ?_
      simp [coeff_map_range, hlam k hk]
    · exact shiftAux_bound (locatorNew_length fp st d) hnew0 hnew h.aux_high

theorem locator_bound (fp : BitVec 9) (syn : List Byte) : LocatorBound 3 (locator fp syn) :=
  locatorPass_bound (locatorPass_bound (locatorPass_bound locatorStart_bound fp syn 0) fp syn 1) fp syn 2

/-- The exponents at which the Chien search finds a zero (R132). -/
def chienExponents (fp : BitVec 9) (lam : List Byte) : List Nat :=
  (List.range' 1 255).filter fun r => chienValue fp lam r == 0

theorem chienSearch_eq_map (fp : BitVec 9) (lam : List Byte) :
    chienSearch fp lam = (chienExponents fp lam).map fun r => 255 - r := rfl

theorem chienExponents_nodup (fp : BitVec 9) (lam : List Byte) : (chienExponents fp lam).Nodup :=
  (List.nodup_range' 1).filter _

section Roots

variable {fp : BitVec 9} (hfp : fp ∈ Config.fieldPolys)
include hfp

/-- The Chien search evaluates the locator at `α^r` (R132). -/
theorem chienValue_eq_evalPoly {lam : List Byte} (hlen : lam.length = 7) (r : Nat) :
    chienValue fp lam r = evalPoly fp lam (gfExp fp (r % 255)) := by
  rw [evalPoly_gfExp_mod hfp, hlen]
  rfl

/-- Each position found is a different root, so there are no more than the degree of the locator. -/
theorem chienSearch_length_le {lam : List Byte} {n : Nat} (hlen : lam.length = 7) (h0 : coeff lam 0 ≠ 0#8)
    (hdeg : ∀ k, n < k → coeff lam k = 0#8) : (chienSearch fp lam).length ≤ n := by
  have hdeg' : ∀ k, n + 1 ≤ k → coeff lam k = 0#8 := fun k hk => hdeg k hk
  have hvalue : evalPoly fp (lam.take (n + 1)) 0#8 ≠ 0#8 := by
    rw [evalPoly_take hdeg']
    cases lam with
    | nil => exact absurd rfl h0
    | cons c cs => simpa [evalPoly_cons, coeff] using h0
  have hinj : ∀ r ∈ List.range' 1 255, ∀ q ∈ List.range' 1 255,
      gfExp fp (r % 255) = gfExp fp (q % 255) → r = q := by
    intro r hr q hq h
    have hlog := gfLog_gfExp_mod hfp r
    rw [h, gfLog_gfExp_mod hfp q, Option.some.injEq] at hlog
    simp only [List.mem_range'_1] at hr hq
    omega
  have hnodup : ((chienExponents fp lam).map fun r => gfExp fp (r % 255)).Nodup :=
    (chienExponents_nodup fp lam).map_on fun r hr q hq =>
      hinj r (List.mem_of_mem_filter hr) q (List.mem_of_mem_filter hq)
  have hroot : ∀ x ∈ (chienExponents fp lam).map fun r => gfExp fp (r % 255),
      evalPoly fp (lam.take (n + 1)) x = 0#8 := by
    intro x hx
    obtain ⟨r, hr, rfl⟩ := List.mem_map.mp hx
    rw [evalPoly_take hdeg', ← chienValue_eq_evalPoly hfp hlen]
    simpa using List.of_mem_filter hr
  have hlt := roots_length_lt hfp hvalue hnodup hroot
  rw [List.length_map, List.length_take] at hlt
  rw [chienSearch_eq_map, List.length_map]
  omega

/-- At most three positions are found, for any syndromes (R132). -/
theorem chienSearch_locator_length_le (syn : List Byte) : (chienSearch fp (locator fp syn).lam).length ≤ 3 := by
  obtain ⟨hlen, h0, _, hdeg, _⟩ := locator_bound fp syn
  exact chienSearch_length_le hfp hlen (by simp [h0]) hdeg

end Roots

@[simp] theorem codewordResult_errorsFound (w : Workspace) (n : Nat) (unc sz : Bool) :
    (codewordResult w n unc sz).2.errorsFound = n := rfl

/-- The selection reports the number of positions, or none (R134 to R138). -/
theorem runSelection_errorsFound_le (fp : BitVec 9) (w : Workspace) :
    (runSelection fp w).2.errorsFound ≤ w.pos.length := by
  simp only [runSelection]
  split_ifs
  · exact Nat.zero_le _
  · exact Nat.le_refl _
  · exact Nat.le_refl _
  · cases errorValues fp w.lam w.omg w.pos <;> exact Nat.le_refl _

theorem runLocator_lam (fp : BitVec 9) (w : Workspace) : (runLocator fp w).lam = (locator fp w.syn).lam := by
  rw [runLocator]

theorem runEvaluator_lam (fp : BitVec 9) (w : Workspace) : (runEvaluator fp w).lam = w.lam := by
  rw [runEvaluator, runProduct]

theorem runChien_pos (fp : BitVec 9) (w : Workspace) : (runChien fp w).pos = chienSearch fp w.lam := by
  rw [runChien]

/-- After stages 1 to 5 the positions are those of the locator of the syndromes in the workspace (R126, R132). -/
theorem runStages_pos (fp : BitVec 9) (w : Workspace) :
    (runStages fp w).pos = chienSearch fp (locator fp w.syn).lam := by
  rw [runStages, runChien_pos, runEvaluator_lam, runLocator_lam]

/-- The decoder reports at most three errors (R15, R139). -/
theorem decodeInWork_errorsFound_le {fp : BitVec 9} (hfp : fp ∈ Config.fieldPolys) (len : Nat) (c : List Byte)
    (w : Workspace) : (decodeInWork fp len c w).2.errorsFound ≤ 3 := by
  simp only [decodeInWork]
  split_ifs
  · exact Nat.zero_le _
  · exact Nat.zero_le _
  · refine (runSelection_errorsFound_le fp _).trans ?_
    rw [runStages_pos]
    exact chienSearch_locator_length_le hfp _

end Sys2Proof.Proofs
end

section
/-! SUPPORT. Every command completes, and the flags each one can report (spec/10_state.md R13, R15, R16). -/

namespace Sys2Proof.Proofs

open Sys2Proof.Machine Sys2Proof.Safety

@[simp] theorem writeCodeword_status (cw : Option (List Byte)) (s : State) :
    (writeCodeword cw s).status = s.status := by
  cases cw <;> rfl

/-- Every command completes, in every state (R175). -/
theorem exec_completes (i : Instr) (s : State) : ∃ t, exec i s = .next t := by
  cases i <;> exact ⟨_, rfl⟩

theorem fieldPoly_mem : fieldPoly ∈ Config.fieldPolys := by decide

/-- The flags a command can leave: none, an error's code alone, or those of the one command that reports them. -/
inductive ReportedBy : Instr → Status → Prop
  | done (i : Instr) : ReportedBy i doneStatus
  | error (i : Instr) (e : ErrCode) : ReportedBy i (errorStatus e)
  | syndromes (len : Byte) (sz : Bool) : ReportedBy (.rssyn len) { doneStatus with sz := sz }
  | decoded (len : Byte) (n : Nat) (unc sz : Bool) (hn : n ≤ 3) :
      ReportedBy (.rsdec len) { doneStatus with errcnt := BitVec.ofNat 4 n, unc := unc, sz := sz }
  | verified (len : Byte) (ok : Bool) : ReportedBy (.crcvfy len) { doneStatus with crcok := ok }

/-- A command reports the flags its body leaves, and `VALID` (R16). -/
theorem commandFrame_status {body : State → State} {s t : State} (h : commandFrame body s = .next t) :
    t.status = { (body (clearFlags s)).status with valid := true } := by
  cases h
  rfl

/-- Everything a command can leave in `STATUS` (R13, R15, R16). -/
theorem exec_reports {i : Instr} {s t : State} (h : exec i s = .next t) : ReportedBy i t.status := by
  cases i with
  | gfmul a b =>
    simp only [exec, execGfmul] at h
    rw [commandFrame_status h]
    exact .done _
  | gfinv a =>
    simp only [exec, execGfinv] at h
    rw [commandFrame_status h]
    cases gfInv fieldPoly a with
    | none => exact .error _ _
    | some v => exact .done _
  | pmul =>
    simp only [exec, execPmul] at h
    rw [commandFrame_status h]
    exact .done _
  | rsenc len =>
    simp only [exec, execRsenc] at h
    rw [commandFrame_status h]
    split
    · exact .error _ _
    · exact .done _
  | rssyn len =>
    simp only [exec, execRssyn] at h
    rw [commandFrame_status h]
    split
    · exact .error _ _
    · exact .syndromes _ _
  | rsdec len =>
    simp only [exec, execRsdec] at h
    rw [commandFrame_status h]
    simp only [setDecodeFlags_status, writeCodeword_status, setWork_status, clearFlags_status]
    exact .decoded _ _ _ _ (decodeInWork_errorsFound_le fieldPoly_mem _ _ _)
  | crccomp len =>
    simp only [exec, execCrccomp] at h
    rw [commandFrame_status h]
    split
    · exact .error _ _
    · exact .done _
  | crcvfy len =>
    simp only [exec, execCrcvfy] at h
    rw [commandFrame_status h]
    split
    · exact .error _ _
    · exact .verified _ _

/-- A rejected command word completes as an error (R72, R73). -/
theorem rejectCommand_eq (e : DecodeError) (s : State) :
    rejectCommand e s = .next (afterError (decodeErrCode e) s) := rfl

theorem ReportedBy.valid {i : Instr} {st : Status} (h : ReportedBy i st) : st.valid = true := by
  cases h <;> rfl

theorem ReportedBy.errcnt_le {i : Instr} {st : Status} (h : ReportedBy i st) : st.errcnt.toNat ≤ 3 := by
  cases h with
  | decoded len n unc sz hn => exact (Nat.mod_le n 16).trans hn
  | _ => exact Nat.zero_le 3

theorem ReportedBy.sz_writer {i : Instr} {st : Status} (h : ReportedBy i st) (hsz : st.sz = true) :
    (∃ len, i = .rssyn len) ∨ ∃ len, i = .rsdec len := by
  cases h with
  | syndromes len _ => exact .inl ⟨len, rfl⟩
  | decoded len => exact .inr ⟨len, rfl⟩
  | _ => cases hsz

theorem ReportedBy.unc_writer {i : Instr} {st : Status} (h : ReportedBy i st) (hunc : st.unc = true) :
    ∃ len, i = .rsdec len := by
  cases h with
  | decoded len => exact ⟨len, rfl⟩
  | _ => cases hunc

theorem ReportedBy.crcok_writer {i : Instr} {st : Status} (h : ReportedBy i st) (hok : st.crcok = true) :
    ∃ len, i = .crcvfy len := by
  cases h with
  | verified len => exact ⟨len, rfl⟩
  | _ => cases hok

theorem ReportedBy.errcnt_writer {i : Instr} {st : Status} (h : ReportedBy i st) (hcount : st.errcnt ≠ 0) :
    ∃ len, i = .rsdec len := by
  cases h with
  | decoded len => exact ⟨len, rfl⟩
  | _ => exact absurd rfl hcount

/-- Every word written to `CMD` completes and sets `VALID`, whether it decodes or not (R14, R16, R72, R73). -/
theorem runCommand_completes (w : Word) (s : State) : ∃ t, runCommand w s = .next t ∧ t.status.valid = true := by
  unfold runCommand
  cases decode w with
  | ok i =>
    obtain ⟨t, ht⟩ := exec_completes i s
    exact ⟨t, ht, (exec_reports ht).valid⟩
  | error e => exact ⟨_, rejectCommand_eq e s, rfl⟩

end Sys2Proof.Proofs
end

section
/-! SUPPORT. The register port: which indices select a register, and what leaves `STATUS` alone (spec/10_state.md R15,
R19, spec/20_memory.md R40, R41). -/

namespace Sys2Proof.Proofs

open Sys2Proof.Machine Sys2Proof.Safety

/-- The reserved indices select no register (R19). -/
theorem regAt_eq_none {index : BitVec 8}
    (h : (0x04 ≤ index.toNat ∧ index.toNat ≤ 0x3F) ∨ (0x40 + Config.inLen ≤ index.toNat ∧ index.toNat ≤ 0x7F) ∨
      0x8D ≤ index.toNat) : regAt index = none := by
  simp only [Config.inLen] at h
  simp only [regAt, Config.inLen, Config.outLen]
  rw [if_neg (by omega), if_neg (by omega), if_neg (by omega), if_neg (by omega), dif_neg (by omega),
    dif_neg (by omega)]

theorem hostWrite_of_regAt_none {index : BitVec 8} (h : regAt index = none) (v : BusData) (s : State) :
    hostWrite index v s = .refused .reservedIndex := by
  simp [hostWrite, h]

theorem hostRead_of_regAt_none {index : BitVec 8} (h : regAt index = none) (width : BusWidth) (s : State) :
    hostRead index width s = .refused .reservedIndex := by
  simp [hostRead, h]

/-- `CMD` stands at index 0 alone (R14). -/
theorem eq_zero_of_regAt_eq_cmd {index : BitVec 8} (h : regAt index = some .cmd) : index = 0x00 := by
  apply BitVec.eq_of_toNat_eq
  simp only [regAt] at h
  split at h
  · assumption
  · split_ifs at h <;> simp at h

/-- A read clears no flag and leaves the results as they were (R15, R41). -/
theorem hostRead_keeps_status_outBuf {index : BitVec 8} {width : BusWidth} {s t : State}
    (h : hostRead index width s = .next t) :
    t.status = s.status ∧ t.outBuf = s.outBuf := by
  obtain ⟨r, _, _, rfl⟩ := hostRead_next h
  exact ⟨rfl, rfl⟩

/-- A write to any register but `CMD` leaves `STATUS` as it was (R15, R40). -/
theorem writeReg_keeps_status {r : Reg} {v : BusData} {s t : State} (hr : r ≠ .cmd) (h : writeReg r v s = .next t) :
    t.status = s.status := by
  rcases writeReg_next h with ⟨w, hcmd, _⟩ | ⟨w, _, _, rfl⟩ | ⟨w, _, _, rfl⟩ | ⟨w, _, _, rfl⟩ | ⟨i, b, _, _, rfl⟩ |
    ⟨i, b, _, _, rfl⟩
  · exact absurd hcmd hr
  all_goals rfl

/-- Only a write to `CMD` and the reset event change `STATUS` (R15). -/
theorem performAccess_keeps_status {a : Access} {s t : State} (h : performAccess a s = .next t)
    (hcommand : isCommand a = false) (hreset : isReset a = false) : t.status = s.status := by
  cases a with
  | hostWrite index v =>
    simp only [performAccess, hostWrite] at h
    split at h
    · cases h
    · rename_i r hr
      refine writeReg_keeps_status ?_ h
      rintro rfl
      simp [isCommand, eq_zero_of_regAt_eq_cmd hr] at hcommand
  | hostRead index width => exact (hostRead_keeps_status_outBuf h).1
  | resetEvent x y w => cases hreset

end Sys2Proof.Proofs
end

section
/-! SUPPORT. The word `STATUS` reads as, bit by bit and field by field (spec/10_state.md R15). -/

namespace Sys2Proof.Proofs

open Sys2Proof.Machine Sys2Proof.Safety

theorem flagBit_getLsbD (b : Bool) {k i : Nat} (hi : i < 32) : (flagBit b k).getLsbD i = (decide (i = k) && b) := by
  rcases Nat.lt_trichotomy i k with h | h | h
  · simp [flagBit, h, Nat.ne_of_lt h]
  · simp [flagBit, h]
    omega
  · simp [flagBit, show i - k ≠ 0 by omega, show i ≠ k by omega]

/-- Bit `i` of the word `STATUS` reads as (R15). -/
theorem statusWord_getLsbD (st : Status) {i : Nat} (hi : i < 32) : (statusWord st).getLsbD i =
    if i = 0 then st.valid else if i = 1 then st.sz else if i = 2 then st.unc else if i = 3 then st.crcok
    else if i < 8 then st.errcnt.getLsbD (i - 4) else (errCode st.err).getLsbD (i - 8) := by
  simp only [statusWord, BitVec.getLsbD_or, flagBit_getLsbD _ hi, BitVec.getLsbD_shiftLeft, BitVec.getLsbD_setWidth, hi]
  split_ifs with h0 h1 h2 h3 h8
  · simp [h0]
  · simp [h1]
  · simp [h2]
  · simp [h3]
  · simp [h0, h1, h2, h3, h8, show ¬ i < 4 by omega, show i - 4 < 32 by omega]
  · have herrcnt : st.errcnt.getLsbD (i - 4) = false := BitVec.getLsbD_of_ge _ _ (by omega)
    simp [h0, h1, h2, h3, h8, herrcnt, show i - 8 < 32 by omega]

theorem statusWord_getLsbD_errcnt (st : Status) {i : Nat} (hi : i < 4) :
    (statusWord st).getLsbD (4 + i) = st.errcnt.getLsbD i := by
  rw [statusWord_getLsbD st (by omega), if_neg (by omega), if_neg (by omega), if_neg (by omega), if_neg (by omega),
    if_pos (by omega), Nat.add_sub_cancel_left]

theorem statusWord_getLsbD_errCode (st : Status) {i : Nat} (hi : i < 24) :
    (statusWord st).getLsbD (8 + i) = (errCode st.err).getLsbD i := by
  rw [statusWord_getLsbD st (by omega), if_neg (by omega), if_neg (by omega), if_neg (by omega), if_neg (by omega),
    if_neg (by omega), Nat.add_sub_cancel_left]

theorem statusWord_errcnt (st : Status) : (statusWord st).extractLsb' 4 4 = st.errcnt := by
  ext i hi
  rw [BitVec.getElem_extractLsb', statusWord_getLsbD_errcnt st hi, BitVec.getLsbD_eq_getElem]

theorem statusWord_errCode (st : Status) : (statusWord st).extractLsb' 8 4 = errCode st.err := by
  ext i hi
  rw [BitVec.getElem_extractLsb', statusWord_getLsbD_errCode st (by omega), BitVec.getLsbD_eq_getElem]

theorem statusWord_reserved (st : Status) : (statusWord st).extractLsb' 12 20 = 0 := by
  ext i hi
  rw [BitVec.getElem_extractLsb', show 12 + i = 8 + (4 + i) by omega, statusWord_getLsbD_errCode st (by omega),
    BitVec.getLsbD_of_ge _ _ (by omega)]
  simp

end Sys2Proof.Proofs
end

section
/-! The statements about the registers (spec/10_state.md). -/

namespace Sys2Proof.Proofs

open Sys2Proof.Machine Sys2Proof.Safety

/-- Settles O13: a reserved index selects no register, and an access to no register is refused. -/
theorem reservedIndexIsRefused : Obligations.ReservedIndexIsRefused := by
  intro s index hreserved
  have hnone : regAt index = none := by
    apply regAt_eq_none
    omega
  exact ⟨fun v => hostWrite_of_regAt_none hnone v s, fun width => hostRead_of_regAt_none hnone width s⟩

/-- Settles O16: the three registers are zero in `State.reset`, and the reset event draws none of them. -/
theorem resetLeavesControlRegistersZero : Obligations.ResetLeavesControlRegistersZero := by
  have hzero : statusWord Status.zero = 0 ∧ ctrlWord false = 0 ∧ crcmaskWord 0 = 0 := by decide
  exact ⟨hzero, fun s x y w => ⟨resetBlock x y w s, rfl, hzero⟩⟩

/-- Settles O12: the bits of the word `STATUS` reads as, what each command can report, and the register port. -/
theorem statusFieldsAndWhoSetsThem : Obligations.StatusFieldsAndWhoSetsThem := by
  refine ⟨fun st => ?bits, fun i s t h => ?writers, rfl, fun s w => runCommand_completes w s,
    fun a s t => performAccess_keeps_status, fun s v => rfl, fun s => ⟨_, rfl, rfl, rfl⟩⟩
  case bits =>
    exact ⟨statusWord_getLsbD st (by decide), statusWord_getLsbD st (by decide), statusWord_getLsbD st (by decide),
      statusWord_getLsbD st (by decide), statusWord_errcnt st, statusWord_errCode st, statusWord_reserved st⟩
  case writers =>
    have hreport := exec_reports h
    exact ⟨hreport.valid, hreport.sz_writer, hreport.unc_writer, hreport.crcok_writer, hreport.errcnt_writer,
      hreport.errcnt_le⟩

end Sys2Proof.Proofs
end

section
/-! SUPPORT. A write to the register port by the register its index selects: the indices of `IN` and `OUT`, and what a
word does at `CMD` and `CRCMASK` (spec/20_memory.md R40). -/

namespace Sys2Proof.Proofs

open Sys2Proof.Machine Sys2Proof.Safety

/-- Index `0x40 + i` selects `IN[i]` (R40). -/
theorem regAt_inIndex (i : Fin Config.inLen) : regAt (inIndex i.val) = some (.inReg i) := by
  obtain ⟨k, hk⟩ := i
  have hindex : (inIndex k).toNat = 0x40 + k :=
    Nat.mod_eq_of_lt (by simp only [Config.inLen] at hk; omega)
  simp only [regAt, hindex]
  rw [if_neg (by omega), if_neg (by omega), if_neg (by omega), if_neg (by omega), dif_pos (by omega)]
  simp

/-- Index `0x80 + i` selects `OUT[i]` (R40). -/
theorem regAt_outIndex (i : Fin Config.outLen) : regAt (outIndex i.val) = some (.outReg i) := by
  obtain ⟨k, hk⟩ := i
  have hindex : (outIndex k).toNat = 0x80 + k :=
    Nat.mod_eq_of_lt (by simp only [Config.outLen] at hk; omega)
  simp only [regAt, hindex, Config.inLen]
  rw [if_neg (by omega), if_neg (by omega), if_neg (by omega), if_neg (by omega), dif_neg (by omega),
    dif_pos (by omega)]
  simp

theorem hostWrite_of_regAt {index : BitVec 8} {r : Reg} (h : regAt index = some r) (v : BusData) (s : State) :
    hostWrite index v s = writeReg r v s := by
  simp [hostWrite, h]

theorem runCommand_of_decode_ok {w : Word} {i : Instr} (h : decode w = .ok i) (s : State) :
    runCommand w s = exec i s := by
  simp [runCommand, h]

theorem runCommand_of_decode_error {w : Word} {e : DecodeError} (h : decode w = .error e) (s : State) :
    runCommand w s = .next (afterError (decodeErrCode e) s) := by
  simp [runCommand, h, rejectCommand_eq]

/-- `CRCMASK` takes bits 15:0 of the word (R18). -/
theorem writeCrcmask_eq (v : Word) (s : State) : writeCrcmask v s = { s with mask := v.extractLsb' 0 16 } := by
  rw [writeCrcmask, BitVec.setWidth_eq_extractLsb' (by decide)]

end Sys2Proof.Proofs
end

section
/-! The statement about the register port's writes (spec/20_memory.md). -/

namespace Sys2Proof.Proofs

open Sys2Proof.Machine Sys2Proof.Safety

/-- Settles O10: the index selects the register, or none, and `writeReg` says what the register takes. -/
theorem hostWriteEffects : Obligations.HostWriteEffects := by
  intro s
  refine ⟨fun v i hok => ?cmdDecoded, fun v e herr => ?cmdRejected, fun v => ?ctrl, fun v => ?crcmask,
    fun i b => ?input, fun v => ?status, fun i b => ?output, fun index v hreserved => ?reserved⟩
  case cmdDecoded => exact runCommand_of_decode_ok hok s
  case cmdRejected => exact runCommand_of_decode_error herr s
  case ctrl => rfl
  case crcmask => exact congrArg Host.Outcome.next (writeCrcmask_eq v s)
  case input => exact hostWrite_of_regAt (regAt_inIndex i) (.byte b) s
  case status => rfl
  case output => exact hostWrite_of_regAt (regAt_outIndex i) (.byte b) s
  case reserved =>
    apply hostWrite_of_regAt_none
    apply regAt_eq_none
    omega

end Sys2Proof.Proofs
end

section
/-! SUPPORT. The decoder by the byte that selects the opcode: the row of the opcode map it selects, or none
(spec/30_encoding.md R70 to R73). -/

namespace Sys2Proof.Proofs

open Sys2Proof.Machine Sys2Proof.Safety

/-- The eight bytes of the map, in its order (R71). -/
theorem map_byte_all : Opcode.all.map Opcode.byte = [0x01, 0x02, 0x03, 0x10, 0x11, 0x12, 0x20, 0x21] := rfl

/-- No two rows of the map share a byte (R71). -/
theorem ofByte_byte (op : Opcode) : Opcode.ofByte op.byte = some op := by
  cases op <;> rfl

/-- The map has no row beyond its eight (R72). -/
theorem ofByte_eq_none_iff (b : Byte) :
    Opcode.ofByte b = none ↔ b ∉ ([0x01, 0x02, 0x03, 0x10, 0x11, 0x12, 0x20, 0x21] : List Byte) := by
  rw [← map_byte_all]
  simp [Opcode.ofByte]

/-- A legal opcode leaves only its reserved bits to check (R70, R73). -/
theorem decode_of_byte {w : Word} {op : Opcode} (h : w.extractLsb' 0 8 = op.byte) :
    decode w = if w &&& op.mbz = 0 then .ok (op.instr w) else .error .reservedNonzero := by
  have hrow : Opcode.ofByte (opField w) = some op := by rw [opField, h, ofByte_byte]
  simp only [decode, hrow]

/-- An illegal opcode is reported whatever the other bits are (R70, R72). -/
theorem decode_of_illegal {w : Word}
    (h : w.extractLsb' 0 8 ∉ ([0x01, 0x02, 0x03, 0x10, 0x11, 0x12, 0x20, 0x21] : List Byte)) :
    decode w = .error .illegalOpcode := by
  have hrow : Opcode.ofByte (opField w) = none := (ofByte_eq_none_iff _).2 h
  simp only [decode, hrow]

/-- A reserved bit set under a legal opcode is reported (R73). -/
theorem decode_of_reserved {w : Word} {op : Opcode} (h : w.extractLsb' 0 8 = op.byte) (hmbz : w &&& op.mbz ≠ 0) :
    decode w = .error .reservedNonzero := by
  rw [decode_of_byte h, if_neg hmbz]

end Sys2Proof.Proofs
end

section
/-! The statements about the command words (spec/30_encoding.md). -/

namespace Sys2Proof.Proofs

open Sys2Proof.Machine Sys2Proof.Safety

/-- Settles O2: each row is `decode_of_byte` at its opcode, whose byte, mask and operand fields are the row's; the bytes
outside the map select no row. -/
theorem opcodeMapDecodesEveryWord : Obligations.OpcodeMapDecodesEveryWord := fun _ =>
  ⟨decode_of_byte (op := .gfmul), decode_of_byte (op := .gfinv), decode_of_byte (op := .pmul),
    decode_of_byte (op := .rsenc), decode_of_byte (op := .rssyn), decode_of_byte (op := .rsdec),
    decode_of_byte (op := .crccomp), decode_of_byte (op := .crcvfy), decode_of_illegal⟩

/-- Settles O4: both words are rejected by the decoder, and a rejected word completes as its error alone. -/
theorem rejectedWordReportsItsErrorAlone : Obligations.RejectedWordReportsItsErrorAlone := by
  intro s w
  refine ⟨fun hbyte => ?illegal, fun op hbyte hmbz => ?reserved⟩
  case illegal => exact runCommand_of_decode_error (decode_of_illegal hbyte) s
  case reserved => exact runCommand_of_decode_error (decode_of_reserved hbyte hmbz) s

end Sys2Proof.Proofs
end

section
/-! SUPPORT. The `EXP` and `LOG` ROMs of every admissible field against the powers of `α`, and the inverse they give
(spec/40_gf_engine.md R92, R96, R101). -/

namespace Sys2Proof.Proofs

open Sys2Proof.Machine Sys2Proof.Safety

section Laws

variable {fp : BitVec 9} (hfp : fp ∈ Config.fieldPolys)
include hfp

theorem gfExp_zero : gfExp fp 0 = 1 := by
  have hall : ∀ fp ∈ Config.fieldPolys, gfExp fp 0 = 1 := by decide +kernel
  exact hall fp hfp

/-- `EXP[i] = α^i`: both double from one entry to the next (R92). -/
theorem gfExp_eq_alphaPow {i : Nat} (hi : i ≤ 255) : gfExp fp i = alphaPow fp i := by
  induction i with
  | zero => exact gfExp_zero hfp
  | succ i ih => rw [((rom_cycle fp hfp).2 i hi).1, ih (by omega), alphaPow]

/-- The two ends of the `EXP` ROM agree, so an index up to 255 counts modulo 255. -/
theorem gfExp_mod {i : Nat} (hi : i ≤ 255) : gfExp fp (i % 255) = gfExp fp i := by
  rcases Nat.lt_or_eq_of_le hi with h | rfl
  · rw [Nat.mod_eq_of_lt h]
  · exact (rom_cycle fp hfp).1.symm

/-- `LOG` is defined off zero, below 255, and `EXP` undoes it (R92). -/
theorem exists_gfLog_of_ne_zero {a : Byte} (ha : a ≠ 0#8) : ∃ i ≤ 254, gfLog fp a = some i ∧ gfExp fp i = a := by
  obtain ⟨n, rfl⟩ := exists_gfExp_of_ne_zero hfp ha
  exact ⟨n % 255, by omega, gfLog_gfExp_mod hfp n, rfl⟩

/-- `1` is neutral: it is `α^0` (R101). -/
theorem gfMul_one_left (b : Byte) : gfMul fp 1 b = b := by
  have hmul := gfMul_gfExp_mod hfp 0 b
  rwa [Nat.zero_mod, gfExp_zero hfp] at hmul

/-- `EXP[255 - LOG[a]]` is the inverse of `a`: the logarithms add up to 255 (R96). -/
theorem exists_gfInv_of_ne_zero {a : Byte} (ha : a ≠ 0#8) : ∃ v, gfInv fp a = some v ∧ gfMul fp a v = 1 := by
  obtain ⟨i, hi, hlog, -⟩ := exists_gfLog_of_ne_zero hfp ha
  have hlogInv : gfLog fp (gfExp fp (255 - i)) = some ((255 - i) % 255) := by
    rw [← gfExp_mod hfp (Nat.sub_le 255 i), gfLog_gfExp_mod hfp]
  refine ⟨gfExp fp (255 - i), by rw [gfInv, hlog, Option.map_some], ?_⟩
  rw [gfMul_of_log hlog hlogInv, show (i + (255 - i) % 255) % 255 = 0 by omega, gfExp_zero hfp]

end Laws

end Sys2Proof.Proofs
end

section
/-! SUPPORT. Sums over GF(256) by their terms, and the coefficients of a polynomial product
(spec/40_gf_engine.md R90, R99, R100). -/

namespace Sys2Proof.Proofs

open Sys2Proof.Machine Sys2Proof.Safety

theorem xorSum_append (xs ys : List Byte) : xorSum (xs ++ ys) = xorSum xs ^^^ xorSum ys := by
  induction xs with
  | nil => simp
  | cons x xs ih => rw [List.cons_append, xorSum_cons, ih, xorSum_cons, BitVec.xor_assoc]

/-- A sum over pairs is a sum of sums. -/
theorem xorSum_flatMap {ι : Type} (l : List ι) (f : ι → List Byte) :
    xorSum (l.flatMap f) = xorSum (l.map fun i => xorSum (f i)) := by
  induction l with
  | nil => rfl
  | cons i l ih => rw [List.flatMap_cons, xorSum_append, ih, List.map_cons, xorSum_cons]

theorem xorSum_map_eq_zero {ι : Type} {l : List ι} {f : ι → Byte} (h : ∀ i ∈ l, f i = 0#8) :
    xorSum (l.map f) = 0#8 := by
  induction l with
  | nil => rfl
  | cons i l ih =>
    rw [List.map_cons, xorSum_cons, h i List.mem_cons_self, ih fun j hj => h j (List.mem_cons_of_mem i hj),
      BitVec.xor_zero]

/-- A sum with only one term that can be nonzero is that term. -/
theorem xorSum_map_range_eq_single {n m : Nat} {f : Nat → Byte} (hm : m < n) (h : ∀ i < n, i ≠ m → f i = 0#8) :
    xorSum ((List.range n).map f) = f m := by
  induction n with
  | zero => omega
  | succ n ih =>
    rw [List.range_succ, List.map_append, xorSum_append, List.map_singleton, xorSum_cons, xorSum_nil]
    rcases Nat.lt_or_eq_of_le (Nat.le_of_lt_succ hm) with hlt | heq
    · rw [ih hlt fun i hi => h i (by omega), h n (by omega) (by omega)]
      simp
    · have hrest : ∀ i ∈ List.range n, f i = 0#8 := by
        intro i hi
        have hin := List.mem_range.1 hi
        exact h i (by omega) (by omega)
      rw [xorSum_map_eq_zero hrest, heq]
      simp

/-- The only index that `i` completes to `k` is `k - i`. -/
theorem filter_range_add_eq (i k n : Nat) :
    (List.range n).filter (fun j => i + j = k) = if i ≤ k ∧ k - i < n then [k - i] else [] := by
  induction n with
  | zero => simp
  | succ n ih =>
    rw [List.range_succ, List.filter_append, ih]
    by_cases hn : i + n = k
    · rw [if_neg (by omega), if_pos (by omega)]
      simp [hn, show k - i = n by omega]
    · simp only [show (i ≤ k ∧ k - i < n + 1) ↔ (i ≤ k ∧ k - i < n) by omega]
      simp [hn]

theorem coeff_polyMul (fp : BitVec 9) (p q : List Byte) {k : Nat} (hk : k < 13) :
    coeff (polyMul fp p q) k = productCoeff fp p q k := by
  rw [polyMul, coeff_map_range, if_pos hk]

/-- The sum over the first index, as the model takes it, is the sum over all pairs of indices that add up to `k`
(R99). -/
theorem productCoeff_eq_convolution (fp : BitVec 9) (p q : List Byte) (k : Nat) :
    productCoeff fp p q k =
      xorSum ((((List.range 7).product (List.range 7)).filter fun ij => ij.1 + ij.2 = k).map fun ij =>
        gfMul fp (coeff p ij.1) (coeff q ij.2)) := by
  have hinner (i : Nat) :
      xorSum ((((List.range 7).map (Prod.mk i)).filter fun ij => ij.1 + ij.2 = k).map fun ij =>
        gfMul fp (coeff p ij.1) (coeff q ij.2)) =
      if i ≤ k ∧ k - i < 7 then gfMul fp (coeff p i) (coeff q (k - i)) else 0#8 := by
    rw [List.filter_map, List.map_map]
    simp only [Function.comp_def, filter_range_add_eq]
    split <;> simp [xorSum_cons]
  rw [List.product, List.filter_flatMap, List.map_flatMap, xorSum_flatMap]
  simp only [hinner, productCoeff]
  rfl

theorem productCoeff_zero_left {p : List Byte} (hp : ∀ i, coeff p i = 0#8) (fp : BitVec 9) (q : List Byte) (k : Nat) :
    productCoeff fp p q k = 0#8 := by
  apply xorSum_map_eq_zero
  intro i _
  simp [hp]

theorem productCoeff_zero_right {q : List Byte} (hq : ∀ j, coeff q j = 0#8) (fp : BitVec 9) (p : List Byte) (k : Nat) :
    productCoeff fp p q k = 0#8 := by
  apply xorSum_map_eq_zero
  intro i _
  simp [hq]

/-- Only the product of the two degree-6 coefficients reaches degree 12 (R100). -/
theorem productCoeff_top (fp : BitVec 9) (p q : List Byte) :
    productCoeff fp p q 12 = gfMul fp (coeff p 6) (coeff q 6) := by
  rw [productCoeff, xorSum_map_range_eq_single (m := 6) (by decide)]
  · simp
  · intro i hi hne
    exact if_neg (by simp only [Config.plen] at hi ⊢; omega)

/-- A constant multiplies every coefficient (R99). -/
theorem productCoeff_const_left {p q : List Byte} (hp : ∀ i, i ≠ 0 → coeff p i = 0#8) (hq : q.length = 7)
    (fp : BitVec 9) (k : Nat) : productCoeff fp p q k = gfMul fp (coeff p 0) (coeff q k) := by
  rw [productCoeff, xorSum_map_range_eq_single (m := 0) (by decide)]
  · by_cases hk : k < 7
    · simp [hk]
    · have hzero : coeff q k = 0#8 := List.getD_eq_default _ _ (by omega)
      simp [hk, hzero]
  · intro i _ hne
    simp [hp i hne]

theorem polyMul_eq_zeros {fp : BitVec 9} {p q : List Byte} (h : ∀ k, productCoeff fp p q k = 0#8) :
    polyMul fp p q = List.replicate 13 0 := by
  rw [polyMul, List.map_congr_left fun k _ => h k, List.map_const', List.length_range]
  rfl

/-- Zeros above the top coefficient change no coefficient. -/
theorem coeff_append_zeros (p : List Byte) (n k : Nat) : coeff (p ++ List.replicate n 0) k = coeff p k := by
  rcases Nat.lt_or_ge k p.length with hk | hk
  · exact List.getD_append _ _ _ _ hk
  · rw [coeff, coeff, List.getD_append_right _ _ _ _ hk, List.getD_eq_default _ _ hk]
    exact List.getElem?_getD_replicate_default_eq 0 n _

theorem coeff_zeros (n k : Nat) : coeff (List.replicate n 0) k = 0#8 := coeff_append_zeros [] n k

/-- A polynomial is its coefficients. -/
theorem eq_of_coeff_eq {p q : List Byte} (hlen : p.length = q.length) (h : ∀ k < p.length, coeff p k = coeff q k) :
    p = q := by
  apply List.ext_getElem hlen
  intro k hp hq
  have hk := h k hp
  rwa [coeff, coeff, List.getD_eq_getElem _ _ hp, List.getD_eq_getElem _ _ hq] at hk

/-- The polynomial `1` is neutral: the product is the other polynomial, with zeros up to degree 12 (R100). -/
theorem polyMul_one_left {fp : BitVec 9} (hfp : fp ∈ Config.fieldPolys) {p : List Byte} (hp : p.length = 7) :
    polyMul fp [1, 0, 0, 0, 0, 0, 0] p = p ++ List.replicate 6 0 := by
  have hconst : ∀ i, i ≠ 0 → coeff [1, 0, 0, 0, 0, 0, 0] i = 0#8
    | i + 1, _ => coeff_zeros 6 i
  apply eq_of_coeff_eq
  · simp [hp]
  · intro k hk
    rw [polyMul_length] at hk
    rw [coeff_polyMul fp _ p hk, productCoeff_const_left hconst hp, coeff_append_zeros]
    exact gfMul_one_left hfp (coeff p k)

end Sys2Proof.Proofs
end

section
/-! SUPPORT. The effect of a command that ends without an error and reports no flag, and the decoder where the reserved
bits are the top bits of the word (spec/10_state.md R16, spec/30_encoding.md R71, R73). -/

namespace Sys2Proof.Proofs

open Sys2Proof.Machine Sys2Proof.Safety

/-- The frame around storing `bs`, whatever workspace the command leaves, has the effect of writing `bs` (R16, R75). -/
theorem commandEffect_writeOut (bs : List Byte) (w : Workspace) (s : State) :
    CommandEffect s (setValid (writeOut bs (setWork w (clearFlags s)))) bs doneStatus :=
  ⟨fun k => writeOut_getElem bs (clearFlags s) k k.isLt, rfl, rfl, rfl, rfl, rfl, rfl⟩

theorem exec_pmul (s : State) :
    exec .pmul s = .next (setValid (writeOut (polyMul fieldPoly (polyOperand1 s) (polyOperand2 s))
      (setWork (runProduct fieldPoly (polyOperand1 s) (polyOperand2 s) s.work) (clearFlags s)))) := rfl

/-- The bits a mask of ones from bit `n` up selects are zero when the field from bit `n` up is. -/
theorem and_ones_shiftLeft_eq_zero_iff (w : Word) {n m : Nat} (h : n + m = 32) :
    w &&& (BitVec.allOnes 32 <<< n) = 0 ↔ w.extractLsb' n m = 0 := by
  constructor
  · intro hand
    apply BitVec.eq_of_getLsbD_eq
    intro i hi
    have hbit := congrArg (fun v => BitVec.getLsbD v (n + i)) hand
    simpa [-BitVec.reduceAllOnes, show n + i < 32 by omega, show i < 32 by omega, hi] using hbit
  · intro hfield
    apply BitVec.eq_of_getLsbD_eq
    intro i hi
    by_cases hin : i < n
    · simp [hin]
    · have hbit := congrArg (fun v => BitVec.getLsbD v (i - n)) hfield
      simpa [-BitVec.reduceAllOnes, show i - n < 32 by omega, show n + (i - n) = i by omega, show i - n < m by omega, hin, hi]
        using hbit

/-- A legal opcode whose reserved bits are those from bit `n` up: the word is rejected when that field is nonzero (R73). -/
theorem decode_of_byte_reserved_from {w : Word} {op : Opcode} {n m : Nat} (h : n + m = 32)
    (hmbz : op.mbz = BitVec.allOnes 32 <<< n) (hbyte : w.extractLsb' 0 8 = op.byte) :
    decode w = if w.extractLsb' n m ≠ 0 then .error .reservedNonzero else .ok (op.instr w) := by
  rw [decode_of_byte hbyte, hmbz, ite_not]
  simp only [and_ones_shiftLeft_eq_zero_iff w h]

end Sys2Proof.Proofs
end

section
/-! The statements about the Galois field engine and its three commands (spec/40_gf_engine.md). -/

namespace Sys2Proof.Proofs

open Sys2Proof.Machine Sys2Proof.Safety

/-- Settles O30: `rom_cycle` walks both ROMs around the powers of `α`, and every nonzero byte is on the walk. -/
theorem expAndLogAreInverse : Obligations.ExpAndLogAreInverse := by
  intro fp hfp
  obtain ⟨hwrap, hrow⟩ := rom_cycle fp hfp
  exact ⟨fun i hi => gfExp_eq_alphaPow hfp hi, hwrap, gfExp_zero hfp, fun i hi => (hrow i (by omega)).2,
    gfLog_zero fp, fun a ha => exists_gfLog_of_ne_zero hfp ha⟩

/-- Settles O33: the model sums over the first index, which fixes the second one of each pair. -/
theorem productCoefficientsAreConvolution : Obligations.ProductCoefficientsAreConvolution := by
  intro fp p1 p2
  refine ⟨polyMul_length fp p1 p2, fun k hk => ?_⟩
  rw [coeff_polyMul fp p1 p2 hk, productCoeff_eq_convolution]

/-- Settles O35: the two ROMs of one field are read out and compared with the list. -/
theorem romsMatchTheListedTables : Obligations.RomsMatchTheListedTables :=
  ⟨by decide +kernel, by decide +kernel⟩

/-- Settles O36: the command stores one byte in its frame, its reserved bits are those from bit 24 up, and `1` is
neutral. -/
theorem gfmulWritesTheProduct : Obligations.GfmulWritesTheProduct := by
  refine ⟨fun a b s => ?effect, fun w hbyte => ?decoded, fun b => ?corners, ?worked⟩
  case effect => exact ⟨_, exec_gfmul a b s, commandEffect_writeOut _ s.work s⟩
  case decoded => exact decode_of_byte_reserved_from (op := .gfmul) rfl rfl hbyte
  case corners => exact ⟨gfMul_zero_left _ b, gfMul_zero_right _ b, gfMul_one_left fieldPoly_mem b⟩
  case worked => decide +kernel

/-- Settles O37: off zero the inverse exists and is the one byte stored; at zero the frame holds the raised error alone. -/
theorem gfinvWritesTheInverse : Obligations.GfinvWritesTheInverse := by
  refine ⟨fun a s ha => ?effect, fun s => ?invZero, fun w hbyte => ?decoded, ?worked⟩
  case effect =>
    obtain ⟨v, hinv, hmul⟩ := exists_gfInv_of_ne_zero fieldPoly_mem ha
    exact ⟨_, v, exec_gfinv_some hinv s, commandEffect_writeOut [v] s.work s, hinv, hmul⟩
  case invZero => exact exec_gfinv_zero s
  case decoded => exact decode_of_byte_reserved_from (op := .gfinv) rfl rfl hbyte
  case worked => decide +kernel

/-- Settles O38: the command stores the 13 coefficients in its frame, and each corner case is a sum with at most one term
that can be nonzero. -/
theorem pmulWritesTheProductPolynomial : Obligations.PmulWritesTheProductPolynomial := by
  refine ⟨fun s => ?effect, fun w hbyte => ?decoded, fun fp hfp p q hp hq => ⟨?zeroLeft, ?zeroRight, ?one, ?top⟩,
    ?worked⟩
  case effect => exact ⟨_, exec_pmul s, commandEffect_writeOut _ _ s⟩
  case decoded => exact decode_of_byte_reserved_from (op := .pmul) rfl rfl hbyte
  case zeroLeft => exact polyMul_eq_zeros (productCoeff_zero_left (coeff_zeros 7) fp p)
  case zeroRight => exact polyMul_eq_zeros (productCoeff_zero_right (coeff_zeros 7) fp p)
  case one => exact polyMul_one_left hfp hp
  case top => rw [coeff_polyMul fp p q (by decide), productCoeff_top]
  case worked => decide +kernel

end Sys2Proof.Proofs
end

section
/-! SUPPORT. Values of polynomials over GF(256): sum, constant multiple and concatenation, multiplication by a power of `α`
as doublings, and Horner's method as the value of the word read from its last byte (spec/40_gf_engine.md R101,
spec/42_rs_decode.md R121). -/

namespace Sys2Proof.Proofs

open Sys2Proof.Machine Sys2Proof.Safety

@[simp] theorem addBytes_cons (b c : Byte) (bs cs : List Byte) :
    addBytes (b :: bs) (c :: cs) = (b ^^^ c) :: addBytes bs cs := rfl

@[simp] theorem addBytes_nil : addBytes [] [] = [] := rfl

theorem addBytes_append {p q : List Byte} (h : p.length = q.length) (p' q' : List Byte) :
    addBytes (p ++ p') (q ++ q') = addBytes p q ++ addBytes p' q' := List.zipWith_append h

/-- Bytes added pair by pair can be added in pairs of pairs. -/
theorem xor_xor_xor_comm (a b c d : Byte) : (a ^^^ b) ^^^ (c ^^^ d) = (a ^^^ c) ^^^ (b ^^^ d) := by
  ac_rfl

/-- Horner's method one byte at a time (R121). -/
theorem horner_concat (fp : BitVec 9) (j : Nat) (c : List Byte) (b : Byte) :
    horner fp j (c ++ [b]) = gfMul fp (horner fp j c) (gfExp fp j) ^^^ b := by
  rw [horner, List.foldl_concat, ← horner]

/-- Horner's method evaluates the word at `α^j`, its last byte being the constant term (R80, R121). -/
theorem horner_eq_evalPoly (fp : BitVec 9) (j : Nat) (c : List Byte) :
    horner fp j c = evalPoly fp c.reverse (gfExp fp j) := by
  induction c using List.reverseRecOn with
  | nil => rfl
  | append_singleton c b ih =>
    rw [horner_concat, ih, List.reverse_concat, evalPoly_cons, gfMul_comm, BitVec.xor_comm]

section Laws

variable {fp : BitVec 9} (hfp : fp ∈ Config.fieldPolys)
include hfp

theorem gfMul_one_right (a : Byte) : gfMul fp a 1 = a := by
  rw [gfMul_comm, gfMul_one_left hfp]

/-- Multiplying by `α^i` is doubling `i` times, for every index of the `EXP` ROM (R101). -/
theorem gfMul_gfExp {i : Nat} (hi : i ≤ 255) (b : Byte) : gfMul fp (gfExp fp i) b = (xtime fp)^[i] b := by
  rw [← gfExp_mod hfp hi, gfMul_gfExp_mod hfp]

theorem iterate_gfMul_xor (x : Byte) (n : Nat) (a b : Byte) :
    (gfMul fp x)^[n] (a ^^^ b) = (gfMul fp x)^[n] a ^^^ (gfMul fp x)^[n] b :=
  Function.Semiconj₂.iterate (gfMul_xor_right hfp x) n a b

theorem evalPoly_addBytes {p q : List Byte} (h : p.length = q.length) (x : Byte) :
    evalPoly fp (addBytes p q) x = evalPoly fp p x ^^^ evalPoly fp q x := by
  induction p generalizing q with
  | nil =>
    obtain rfl := List.length_eq_zero_iff.mp h.symm
    exact (BitVec.xor_self).symm
  | cons a p ih =>
    cases q with
    | nil => cases h
    | cons b q =>
      rw [addBytes_cons, evalPoly_cons, evalPoly_cons, evalPoly_cons, ih (Nat.succ.inj h), gfMul_xor_right hfp]
      exact xor_xor_xor_comm _ _ _ _

theorem evalPoly_map_gfMul (k : Byte) (p : List Byte) (x : Byte) :
    evalPoly fp (p.map (gfMul fp k)) x = gfMul fp k (evalPoly fp p x) := by
  induction p with
  | nil => exact (gfMul_zero_right fp k).symm
  | cons a p ih => rw [List.map_cons, evalPoly_cons, evalPoly_cons, ih, gfMul_xor_right hfp, gfMul_left_comm hfp]

/-- The coefficients behind the first `n` count `x^n` times. -/
theorem evalPoly_append (p q : List Byte) (x : Byte) :
    evalPoly fp (p ++ q) x = evalPoly fp p x ^^^ (gfMul fp x)^[p.length] (evalPoly fp q x) := by
  induction p with
  | nil => exact (BitVec.zero_xor).symm
  | cons a p ih =>
    rw [List.cons_append, evalPoly_cons, evalPoly_cons, ih, gfMul_xor_right hfp, List.length_cons,
      Function.iterate_succ_apply', BitVec.xor_assoc]

end Laws

end Sys2Proof.Proofs
end

section
/-! SUPPORT. The encoder's shift register: it is linear in its state and data byte, and it divides by the generator
polynomial, which vanishes at `α`, `α²` and `α³` (spec/41_rs_encode.md R110 to R112). -/

namespace Sys2Proof.Proofs

open Sys2Proof.Machine Sys2Proof.Safety

/-- The shift register with every byte zero, as the encoder starts it (R112). -/
def zeroParity : Parity := { p2 := 0, p1 := 0, p0 := 0 }

/-- The byte-wise sum of two remainders. -/
def addParity (r t : Parity) : Parity := { p2 := r.p2 ^^^ t.p2, p1 := r.p1 ^^^ t.p1, p0 := r.p0 ^^^ t.p0 }

/-- The multiple `k ⊗ r` of a remainder. -/
def scaleParity (fp : BitVec 9) (k : Byte) (r : Parity) : Parity :=
  { p2 := gfMul fp k r.p2, p1 := gfMul fp k r.p1, p0 := gfMul fp k r.p0 }

/-- The remainder as a polynomial, lowest degree first (R112). -/
def parityPoly (r : Parity) : List Byte := [r.p0, r.p1, r.p2]

/-- The generator polynomial, lowest degree first (R110). -/
def generatorPoly : List Byte := [gen0, gen1, gen2, 1]

theorem rsRemainder_concat (fp : BitVec 9) (d : List Byte) (b : Byte) :
    rsRemainder fp (d ++ [b]) = lfsrStep fp (rsRemainder fp d) b := by
  rw [rsRemainder, List.foldl_concat, ← rsRemainder]

/-- From the zero register the feedback is the data byte itself (R114 (d)). -/
theorem lfsrStep_zeroParity (fp : BitVec 9) (b : Byte) : lfsrStep fp zeroParity b =
    { p2 := gfMul fp b gen2, p1 := gfMul fp b gen1, p0 := gfMul fp b gen0 } := by
  simp [lfsrStep, zeroParity, gfMul_comm fp b]

/-- Zero data bytes leave the register zero (R114 (a)). -/
theorem rsRemainder_zeros (fp : BitVec 9) (n : Nat) : rsRemainder fp (List.replicate n 0) = zeroParity := by
  induction n with
  | zero => rfl
  | succ n ih => rw [List.replicate_succ', rsRemainder_concat, ih, lfsrStep_zeroParity]; rfl

/-- Zero data bytes in front of a last byte: the parity is that byte's multiple of the generator (R114 (d)). -/
theorem rsRemainder_zeros_concat (fp : BitVec 9) (n : Nat) (b : Byte) :
    rsRemainder fp (List.replicate n 0 ++ [b]) =
      { p2 := gfMul fp b gen2, p1 := gfMul fp b gen1, p0 := gfMul fp b gen0 } := by
  rw [rsRemainder_concat, rsRemainder_zeros, lfsrStep_zeroParity]

/-- The codeword as a polynomial: the remainder below the data. -/
theorem rsEncode_reverse (fp : BitVec 9) (d : List Byte) :
    (rsEncode fp d).reverse = parityPoly (rsRemainder fp d) ++ d.reverse := by
  simp [rsEncode, parityPoly]

section Laws

variable {fp : BitVec 9} (hfp : fp ∈ Config.fieldPolys)
include hfp

theorem lfsrStep_add (r t : Parity) (b c : Byte) :
    lfsrStep fp (addParity r t) (b ^^^ c) = addParity (lfsrStep fp r b) (lfsrStep fp t c) := by
  simp only [lfsrStep, addParity, xor_xor_xor_comm b c, gfMul_xor_right hfp, xor_xor_xor_comm r.p1 t.p1,
    xor_xor_xor_comm r.p0 t.p0]

theorem lfsrStep_scale (k : Byte) (r : Parity) (b : Byte) :
    lfsrStep fp (scaleParity fp k r) (gfMul fp k b) = scaleParity fp k (lfsrStep fp r b) := by
  simp only [lfsrStep, scaleParity, ← gfMul_xor_right hfp, gfMul_left_comm hfp _ k]

theorem foldl_lfsrStep_add {d e : List Byte} (h : d.length = e.length) (r t : Parity) :
    (addBytes d e).foldl (lfsrStep fp) (addParity r t) =
      addParity (d.foldl (lfsrStep fp) r) (e.foldl (lfsrStep fp) t) := by
  induction d generalizing e r t with
  | nil =>
    obtain rfl := List.length_eq_zero_iff.mp h.symm
    rfl
  | cons b d ih =>
    cases e with
    | nil => cases h
    | cons c e =>
      rw [addBytes_cons, List.foldl_cons, List.foldl_cons, List.foldl_cons, lfsrStep_add hfp, ih (Nat.succ.inj h)]

/-- The remainder of a sum is the sum of the remainders (R114 (b)). -/
theorem rsRemainder_addBytes {d e : List Byte} (h : d.length = e.length) :
    rsRemainder fp (addBytes d e) = addParity (rsRemainder fp d) (rsRemainder fp e) :=
  foldl_lfsrStep_add hfp h zeroParity zeroParity

/-- The remainder of a multiple is the multiple of the remainder (R114 (b)). -/
theorem rsRemainder_map_gfMul (k : Byte) (d : List Byte) :
    rsRemainder fp (d.map (gfMul fp k)) = scaleParity fp k (rsRemainder fp d) := by
  have hzero : scaleParity fp k zeroParity = zeroParity := by simp [scaleParity, zeroParity]
  induction d using List.reverseRecOn with
  | nil => exact hzero.symm
  | append_singleton d b ih =>
    rw [List.map_append, List.map_singleton, rsRemainder_concat, rsRemainder_concat, ih, lfsrStep_scale hfp]

theorem rsEncode_addBytes {d e : List Byte} (h : d.length = e.length) :
    rsEncode fp (addBytes d e) = addBytes (rsEncode fp d) (rsEncode fp e) := by
  simp only [rsEncode, rsRemainder_addBytes hfp h, addBytes_append h]
  rfl

theorem rsEncode_map_gfMul (k : Byte) (d : List Byte) :
    rsEncode fp (d.map (gfMul fp k)) = (rsEncode fp d).map (gfMul fp k) := by
  simp only [rsEncode, rsRemainder_map_gfMul hfp, List.map_append]
  rfl

/-- `α`, `α²` and `α³` are roots of the generator polynomial in every field: the coefficients are so small that no doubling
on the way carries out of the byte (R110). -/
theorem evalPoly_generatorPoly {j : Nat} (hj : j = 1 ∨ j = 2 ∨ j = 3) :
    evalPoly fp generatorPoly (gfExp fp j) = 0#8 := by
  simp only [generatorPoly, evalPoly_cons, gfMul_gfExp hfp (show j ≤ 255 by omega)]
  rcases hj with rfl | rfl | rfl <;> simp [evalPoly, gen0, gen1, gen2, xtime_eq]

/-- One step of the register is one step of the division: the new remainder is `x·R + d·x³` less the multiple of the
generator that removes its degree-3 term (R112). -/
theorem parityPoly_lfsrStep (r : Parity) (d : Byte) :
    parityPoly (lfsrStep fp r d) ++ [0] =
      addBytes (addBytes (0 :: parityPoly r) [0, 0, 0, d]) (generatorPoly.map (gfMul fp (d ^^^ r.p2))) := by
  have htop : r.p2 ^^^ d ^^^ gfMul fp (d ^^^ r.p2) 1 = 0#8 := by
    rw [gfMul_one_right hfp, BitVec.xor_comm r.p2, BitVec.xor_self]
  simp only [parityPoly, lfsrStep, generatorPoly, List.cons_append, List.nil_append, List.map_cons, List.map_nil,
    addBytes_cons, addBytes_nil, htop, gfMul_comm fp _ (d ^^^ r.p2)]
  simp

/-- At a root of the generator the remainder's value takes one step of Horner's method, `x³` times the data byte added
(R111, R112). -/
theorem evalPoly_lfsrStep {x : Byte} (hroot : evalPoly fp generatorPoly x = 0#8) (r : Parity) (d : Byte) :
    evalPoly fp (parityPoly (lfsrStep fp r d)) x =
      gfMul fp x (evalPoly fp (parityPoly r) x) ^^^ (gfMul fp x)^[3] d := by
  calc evalPoly fp (parityPoly (lfsrStep fp r d)) x
      = evalPoly fp (parityPoly (lfsrStep fp r d) ++ [0]) x := by simp [parityPoly, evalPoly]
    _ = evalPoly fp (0 :: parityPoly r) x ^^^ evalPoly fp [0, 0, 0, d] x := by
      rw [parityPoly_lfsrStep hfp, evalPoly_addBytes hfp (by rfl), evalPoly_map_gfMul hfp, hroot, gfMul_zero_right,
        BitVec.xor_zero, evalPoly_addBytes hfp (by rfl)]
    _ = gfMul fp x (evalPoly fp (parityPoly r) x) ^^^ (gfMul fp x)^[3] d := by simp [evalPoly]

/-- At a root of the generator the remainder has the value of `d(x)·x³` (R111). -/
theorem evalPoly_rsRemainder {x : Byte} (hroot : evalPoly fp generatorPoly x = 0#8) (d : List Byte) :
    evalPoly fp (parityPoly (rsRemainder fp d)) x = (gfMul fp x)^[3] (evalPoly fp d.reverse x) := by
  induction d using List.reverseRecOn with
  | nil => simp [rsRemainder, parityPoly, evalPoly]
  | append_singleton d b ih =>
    have hshift : gfMul fp x ((gfMul fp x)^[3] (evalPoly fp d.reverse x)) =
        (gfMul fp x)^[3] (gfMul fp x (evalPoly fp d.reverse x)) := Function.Commute.self_iterate _ 3 _
    rw [rsRemainder_concat, evalPoly_lfsrStep hfp hroot, ih, List.reverse_concat, evalPoly_cons,
      iterate_gfMul_xor hfp, hshift, BitVec.xor_comm]

/-- A codeword vanishes at every root of the generator (R114 (c)). -/
theorem evalPoly_rsEncode {x : Byte} (hroot : evalPoly fp generatorPoly x = 0#8) (d : List Byte) :
    evalPoly fp (rsEncode fp d).reverse x = 0#8 := by
  rw [rsEncode_reverse, evalPoly_append hfp, evalPoly_rsRemainder hfp hroot]
  exact BitVec.xor_self

/-- The three syndromes of a codeword are its values at the roots of the generator (R114 (c), R121). -/
theorem rsSyndromes_rsEncode (d : List Byte) : rsSyndromes fp (rsEncode fp d) = { s1 := 0, s2 := 0, s3 := 0 } := by
  have hzero {j : Nat} (hj : j = 1 ∨ j = 2 ∨ j = 3) : horner fp j (rsEncode fp d) = 0#8 := by
    rw [horner_eq_evalPoly, evalPoly_rsEncode hfp (evalPoly_generatorPoly hfp hj)]
  rw [rsSyndromes, hzero (.inl rfl), hzero (.inr (.inl rfl)), hzero (.inr (.inr rfl))]
  rfl

/-- The first powers of `α` need no reduction, so they are the same in every field (R110). -/
theorem gfExp_one_two_three : gfExp fp 1 = 2 ∧ gfExp fp 2 = 4 ∧ gfExp fp 3 = 8 := by
  simp only [gfExp_eq_alphaPow hfp (show 1 ≤ 255 by decide), gfExp_eq_alphaPow hfp (show 2 ≤ 255 by decide),
    gfExp_eq_alphaPow hfp (show 3 ≤ 255 by decide)]
  simp [alphaPow, xtime_eq]

/-- The product of three linear factors, by the elementary symmetric functions of the roots (R99, R110). -/
theorem polyMul_three_linear (a b c : Byte) :
    polyMul fp ((polyMul fp [a, 1, 0, 0, 0, 0, 0] [b, 1, 0, 0, 0, 0, 0]).take 7) [c, 1, 0, 0, 0, 0, 0] =
      [gfMul fp (gfMul fp a b) c, gfMul fp a b ^^^ gfMul fp (a ^^^ b) c, a ^^^ b ^^^ c, 1,
        0, 0, 0, 0, 0, 0, 0, 0, 0] := by
  have hleft (y : Byte) : gfMul fp 1#8 y = y := gfMul_one_left hfp y
  have hright (y : Byte) : gfMul fp y 1#8 = y := gfMul_one_right hfp y
  simp [polyMul, productCoeff, List.range_succ, coeff, xorSum_cons, hleft, hright]

end Laws

/-- `RSENC 9` stores the codeword of `IN[0..8]` in its frame, and leaves the register in the workspace (R113). -/
theorem exec_rsenc_nine (s : State) :
    exec (.rsenc 9) s = .next (setValid (writeOut (rsEncode fieldPoly (inPrefix s 9))
      (setWork (runEncoder fieldPoly (inPrefix s 9) s.work) (clearFlags s)))) := by
  rw [← codewordFrom_runEncoder fieldPoly (inPrefix s 9) s.work]
  rfl

end Sys2Proof.Proofs
end

section
/-! The statements about the Reed-Solomon encoder and its command (spec/41_rs_encode.md). -/

namespace Sys2Proof.Proofs

open Sys2Proof.Machine Sys2Proof.Safety

/-- Settles O45: the shift register is linear, and its codewords vanish at the roots of the generator. -/
theorem encoderIsLinearAndItsCodewordsHaveZeroSyndromes :
    Obligations.EncoderIsLinearAndItsCodewordsHaveZeroSyndromes := by
  intro fp hfp
  refine ⟨?zero, fun d e hd he => ?sum, fun k d _ => ?multiple, fun d _ => ?syndromes, fun v => ?lastByte⟩
  case zero => rw [rsEncode, rsRemainder_zeros]; rfl
  case sum => exact rsEncode_addBytes hfp (hd.trans he.symm)
  case multiple => exact rsEncode_map_gfMul hfp k d
  case syndromes => exact rsSyndromes_rsEncode hfp d
  case lastByte =>
    have hrem := rsRemainder_zeros_concat fp 8 v
    exact congrArg (fun r : Parity => [0, 0, 0, 0, 0, 0, 0, 0, v, r.p2, r.p1, r.p0]) hrem

/-- Settles O39: the command stores the codeword in its frame, any other length leaves the raised error alone, and the
reserved bits are those from bit 16 up. -/
theorem rsencWritesTheCodeword : Obligations.RsencWritesTheCodeword := by
  refine ⟨fun s => ?effect, fun len s hlen => ?wrongLength, fun w hbyte => ?decoded, ?worked⟩
  case effect => exact ⟨_, exec_rsenc_nine s, commandEffect_writeOut _ _ s⟩
  case wrongLength => exact exec_rsenc_length (fun h => hlen (BitVec.eq_of_toNat_eq h)) s
  case decoded => exact decode_of_byte_reserved_from (op := .rsenc) rfl rfl hbyte
  case worked => decide +kernel

/-- Settles O44: the three roots are 2, 4 and 8, and the products of the expansion stay below 256, so that each of them is
some number of plain doublings. -/
theorem generatorHasTheThreeRoots : Obligations.GeneratorHasTheThreeRoots := by
  intro fp hfp
  obtain ⟨hone, htwo, hthree⟩ := gfExp_one_two_three hfp
  refine ⟨?product, rfl, hone, htwo, hthree⟩
  case product =>
    have htimes4 (b : Byte) : gfMul fp b 4 = (xtime fp)^[2] b := by
      rw [gfMul_comm, ← htwo, gfMul_gfExp hfp (by decide)]
    have htimes8 (b : Byte) : gfMul fp b 8 = (xtime fp)^[3] b := by
      rw [gfMul_comm, ← hthree, gfMul_gfExp hfp (by decide)]
    rw [hone, htwo, hthree, polyMul_three_linear hfp, htimes4, htimes8, htimes8]
    simp [xtime_eq, gen0, gen1, gen2]

end Sys2Proof.Proofs
end

section
/-! SUPPORT. Division in GF(256): multiplication is associative and can be cancelled, and a quotient is what the divisor
takes back to the dividend (spec/40_gf_engine.md R101). -/

namespace Sys2Proof.Proofs

open Sys2Proof.Machine Sys2Proof.Safety

section Laws

variable {fp : BitVec 9} (hfp : fp ∈ Config.fieldPolys)
include hfp

theorem gfMul_assoc (a b c : Byte) : gfMul fp (gfMul fp a b) c = gfMul fp a (gfMul fp b c) := by
  rw [gfMul_comm, gfMul_left_comm hfp, gfMul_comm fp c]

/-- `1` is neutral on both sides, in the spelling `simp` brings the byte to (R101). -/
theorem one_neutral : (∀ b, gfMul fp 1#8 b = b) ∧ ∀ b, gfMul fp b 1#8 = b :=
  ⟨gfMul_one_left hfp, gfMul_one_right hfp⟩

theorem gfMul_ne_zero {a b : Byte} (ha : a ≠ 0#8) (hb : b ≠ 0#8) : gfMul fp a b ≠ 0#8 := fun h =>
  (gfMul_eq_zero hfp h).elim ha hb

theorem gfMul_left_cancel {a b c : Byte} (ha : a ≠ 0#8) (h : gfMul fp a b = gfMul fp a c) : b = c := by
  rw [← BitVec.xor_eq_zero_iff, ← gfMul_xor_right hfp] at h
  exact BitVec.xor_eq_zero_iff.mp ((gfMul_eq_zero hfp h).resolve_left ha)

/-- Off zero, dividing by `b` is solving `b ⊗ q = a` (R101). -/
theorem gfDiv_eq_some_iff {a b q : Byte} (hb : b ≠ 0#8) : gfDiv fp a b = some q ↔ gfMul fp b q = a := by
  obtain ⟨v, hinv, hone⟩ := exists_gfInv_of_ne_zero hfp hb
  have hquot : gfMul fp b (gfMul fp a v) = a := by
    rw [gfMul_left_comm hfp, hone, gfMul_one_right hfp]
  rw [gfDiv, hinv, Option.map_some, Option.some.injEq]
  constructor
  · rintro rfl
    exact hquot
  · exact fun h => gfMul_left_cancel hfp hb (hquot.trans h.symm)

/-- A power of `α` is not zero: it has a logarithm. -/
theorem gfExp_ne_zero {i : Nat} (hi : i ≤ 255) : gfExp fp i ≠ 0#8 := by
  intro h
  have hlog := gfLog_gfExp_mod hfp i
  rw [gfExp_mod hfp hi, h, gfLog_zero] at hlog
  cases hlog

/-- A power of `α` raised to the power `j` is `α^j` raised to that power (R101). -/
theorem iterate_gfMul_gfExp_comm {i j : Nat} (hi : i ≤ 255) (hj : j ≤ 255) (b : Byte) :
    (gfMul fp (gfExp fp j))^[i] b = (gfMul fp (gfExp fp i))^[j] b := by
  have hpow {n : Nat} (hn : n ≤ 255) : gfMul fp (gfExp fp n) = (xtime fp)^[n] := funext (gfMul_gfExp hfp hn)
  rw [hpow hi, hpow hj, ← Function.iterate_mul, ← Function.iterate_mul, Nat.mul_comm]

end Laws

end Sys2Proof.Proofs
end

section
/-! SUPPORT. The three passes of the locator iteration, one equation per way a pass can go, and the locator they leave for
each first nonzero syndrome (spec/42_rs_decode.md R126 to R128). -/

namespace Sys2Proof.Proofs

open Sys2Proof.Machine Sys2Proof.Safety

/-- The iteration while its locator is `1 + Λ1·z`: `L = 1` and `K = 0` (R127). -/
def linearState (l1 : Byte) (aux : List Byte) : LocatorState :=
  { lam := [1, l1, 0, 0, 0, 0, 0], aux := aux, ell := 1, kay := 0 }

theorem locator_eq_passes (fp : BitVec 9) (syn : List Byte) : locator fp syn =
    locatorPass fp syn (locatorPass fp syn (locatorPass fp syn locatorStart 0) 1) 2 := rfl

/-- A pass with discrepancy zero only shifts the auxiliary polynomial (R127). -/
theorem locatorPass_of_discrepancy_zero {fp : BitVec 9} {syn : List Byte} {st : LocatorState} {n : Nat}
    (hd : discrepancy fp syn st n = 0#8) : locatorPass fp syn st n = shiftAux st := by
  simp [locatorPass, locatorUpdate, hd]

/-- A pass that makes the locator longer: the old locator over the discrepancy becomes the auxiliary polynomial (R127). -/
theorem locatorPass_of_longer {fp : BitVec 9} {syn : List Byte} {st : LocatorState} {n : Nat} {d v : Byte}
    (hd : discrepancy fp syn st n = d) (hne : d ≠ 0#8) (hinv : gfInv fp d = some v) (hell : (st.ell : Int) < n - st.kay) :
    locatorPass fp syn st n = shiftAux
      { lam := locatorNew fp st d, aux := (List.range 7).map fun i => gfMul fp (coeff st.lam i) v,
        ell := (n - st.kay).toNat, kay := n - st.ell } := by
  simp [locatorPass, locatorUpdate, hd, hne, hinv, hell]

theorem locatorNew_zero (fp : BitVec 9) {st : LocatorState} (hlen : st.lam.length = 7) :
    locatorNew fp st 0#8 = st.lam := by
  apply eq_of_coeff_eq
  · rw [locatorNew_length, hlen]
  · intro k hk
    rw [locatorNew_length] at hk
    rw [locatorNew, coeff_map_range, if_pos hk, gfMul_zero_left, BitVec.xor_zero]

/-- A pass that leaves `L` and `K`: the new locator is `LAM + d·AUX` whether or not `d` is zero (R127). -/
theorem locatorPass_of_not_longer {fp : BitVec 9} {syn : List Byte} {st : LocatorState} {n : Nat} {d : Byte}
    (hd : discrepancy fp syn st n = d) (hlen : st.lam.length = 7) (hell : ¬ (st.ell : Int) < n - st.kay) :
    locatorPass fp syn st n = shiftAux { st with lam := locatorNew fp st d } := by
  by_cases hzero : d = 0#8
  · rw [hzero, locatorNew_zero fp hlen]
    exact locatorPass_of_discrepancy_zero (hd.trans hzero)
  · simp [locatorPass, locatorUpdate, hd, hzero, hell]

section Laws

variable {fp : BitVec 9} (hfp : fp ∈ Config.fieldPolys)
include hfp

/-- The first pass with `S1 != 0`: the locator is `1 + S1·z`, and `v` is the inverse of `S1`. -/
theorem locatorPass_first {S : Syndromes} {v : Byte} (h1 : S.s1 ≠ 0#8) (hinv : gfInv fp S.s1 = some v) :
    locatorPass fp S.poly locatorStart 0 = linearState S.s1 [0, v, 0, 0, 0, 0, 0] := by
  have hd : discrepancy fp S.poly locatorStart 0 = S.s1 := by
    simp [discrepancy, locatorStart, Syndromes.poly, coeff, xorSum_cons, one_neutral hfp]
  rw [locatorPass_of_longer hd h1 hinv (by decide)]
  simp [linearState, shiftAux, locatorNew, locatorStart, coeff, List.range_succ, one_neutral hfp]

/-- The second pass with `S1 != 0` makes the linear coefficient `S1 + (S2 + S1²)·v`. -/
theorem locatorPass_second (S : Syndromes) (v : Byte) :
    locatorPass fp S.poly (linearState S.s1 [0, v, 0, 0, 0, 0, 0]) 1 =
      linearState (S.s1 ^^^ gfMul fp (S.s2 ^^^ gfMul fp S.s1 S.s1) v) [0, 0, v, 0, 0, 0, 0] := by
  have hd : discrepancy fp S.poly (linearState S.s1 [0, v, 0, 0, 0, 0, 0]) 1 = S.s2 ^^^ gfMul fp S.s1 S.s1 := by
    simp [discrepancy, linearState, Syndromes.poly, coeff, xorSum_cons, List.range_succ, one_neutral hfp]
  rw [locatorPass_of_not_longer hd rfl (by simp [linearState])]
  simp [linearState, shiftAux, locatorNew, coeff, List.range_succ]

/-- The third pass from a locator `1 + Λ1·z`: the discrepancy times `v` becomes the quadratic coefficient. -/
theorem locatorPass_third (S : Syndromes) (l1 : Byte) {v : Byte} (hv : v ≠ 0#8) :
    let st := locatorPass fp S.poly (linearState l1 [0, 0, v, 0, 0, 0, 0]) 2
    let l2 := gfMul fp (S.s3 ^^^ gfMul fp l1 S.s2) v
    st.lam = [1, l1, l2, 0, 0, 0, 0] ∧ st.ell = if l2 = 0 then 1 else 2 := by
  have hd : discrepancy fp S.poly (linearState l1 [0, 0, v, 0, 0, 0, 0]) 2 = S.s3 ^^^ gfMul fp l1 S.s2 := by
    simp [discrepancy, linearState, Syndromes.poly, coeff, xorSum_cons, List.range_succ, one_neutral hfp]
  by_cases hzero : S.s3 ^^^ gfMul fp l1 S.s2 = 0#8
  · rw [locatorPass_of_discrepancy_zero (hd.trans hzero), hzero]
    simp [linearState, shiftAux]
  · obtain ⟨u, hinv, -⟩ := exists_gfInv_of_ne_zero hfp hzero
    rw [locatorPass_of_longer hd hzero hinv (by simp [linearState])]
    simp [linearState, shiftAux, locatorNew, coeff, List.range_succ, gfMul_ne_zero hfp hzero hv]

/-- Case A of R128, without division: `Λ1` takes `S1` to `S2`, and `Λ2` takes `S1²` to `S1·S3 + S2²`. -/
theorem locator_of_s1_ne_zero {S : Syndromes} (h1 : S.s1 ≠ 0#8) : ∃ l1 l2, gfMul fp S.s1 l1 = S.s2 ∧
    gfMul fp (gfMul fp S.s1 S.s1) l2 = gfMul fp S.s1 S.s3 ^^^ gfMul fp S.s2 S.s2 ∧
    (locator fp S.poly).lam = [1, l1, l2, 0, 0, 0, 0] ∧ (locator fp S.poly).ell = if l2 = 0 then 1 else 2 := by
  obtain ⟨v, hinv, hone⟩ := exists_gfInv_of_ne_zero hfp h1
  have hv : v ≠ 0#8 := by
    rintro rfl
    rw [gfMul_zero_right] at hone
    cases hone
  have hcancel (y : Byte) : gfMul fp S.s1 (gfMul fp y v) = y := by
    rw [gfMul_left_comm hfp, hone, gfMul_one_right hfp]
  have hl1 : gfMul fp S.s1 (S.s1 ^^^ gfMul fp (S.s2 ^^^ gfMul fp S.s1 S.s1) v) = S.s2 := by
    rw [gfMul_xor_right hfp, hcancel, BitVec.xor_comm, BitVec.xor_assoc, BitVec.xor_self, BitVec.xor_zero]
  obtain ⟨hlam, hell⟩ := locatorPass_third hfp S (S.s1 ^^^ gfMul fp (S.s2 ^^^ gfMul fp S.s1 S.s1) v) hv
  rw [locator_eq_passes, locatorPass_first hfp h1 hinv, locatorPass_second hfp]
  refine ⟨_, _, hl1, ?_, hlam, hell⟩
  rw [gfMul_assoc hfp, hcancel, gfMul_xor_right hfp, ← gfMul_assoc hfp, hl1]

/-- Case B of R128, without division: `Λ1` takes `S2` to `S3`, and `Λ2` is `S2`. -/
theorem locator_of_s2_ne_zero {S : Syndromes} (h1 : S.s1 = 0#8) (h2 : S.s2 ≠ 0#8) : ∃ l1, gfMul fp S.s2 l1 = S.s3 ∧
    (locator fp S.poly).lam = [1, l1, S.s2, 0, 0, 0, 0] ∧ (locator fp S.poly).ell = 2 := by
  obtain ⟨v, hinv, hone⟩ := exists_gfInv_of_ne_zero hfp h2
  have hd0 : discrepancy fp S.poly locatorStart 0 = 0#8 := by
    simp [discrepancy, locatorStart, Syndromes.poly, coeff, xorSum_cons, h1]
  have hd1 : discrepancy fp S.poly (shiftAux locatorStart) 1 = S.s2 := by
    simp [discrepancy, shiftAux, locatorStart, Syndromes.poly, coeff, xorSum_cons, one_neutral hfp]
  have hpass1 : locatorPass fp S.poly (shiftAux locatorStart) 1 =
      { lam := [1, 0, S.s2, 0, 0, 0, 0], aux := [0, v, 0, 0, 0, 0, 0], ell := 2, kay := 1 } := by
    rw [locatorPass_of_longer hd1 h2 hinv (by decide)]
    simp [shiftAux, locatorNew, locatorStart, coeff, List.range_succ, one_neutral hfp]
  have hd2 : discrepancy fp S.poly
      { lam := [1, 0, S.s2, 0, 0, 0, 0], aux := [0, v, 0, 0, 0, 0, 0], ell := 2, kay := 1 } 2 = S.s3 := by
    simp [discrepancy, Syndromes.poly, coeff, xorSum_cons, List.range_succ, one_neutral hfp, h1]
  refine ⟨gfMul fp S.s3 v, by rw [gfMul_left_comm hfp, hone, gfMul_one_right hfp], ?_⟩
  rw [locator_eq_passes, locatorPass_of_discrepancy_zero hd0, hpass1, locatorPass_of_not_longer hd2 rfl (by simp)]
  simp [shiftAux, locatorNew, coeff, List.range_succ]

/-- Case C of R128: two passes shift the auxiliary polynomial up to `z³`, and the third adds `S3` times it. -/
theorem locator_of_s3_ne_zero {S : Syndromes} (h1 : S.s1 = 0#8) (h2 : S.s2 = 0#8) (h3 : S.s3 ≠ 0#8) :
    (locator fp S.poly).lam = [1, 0, 0, S.s3, 0, 0, 0] ∧ (locator fp S.poly).ell = 3 := by
  obtain ⟨v, hinv, -⟩ := exists_gfInv_of_ne_zero hfp h3
  have hd0 : discrepancy fp S.poly locatorStart 0 = 0#8 := by
    simp [discrepancy, locatorStart, Syndromes.poly, coeff, xorSum_cons, h1]
  have hd1 : discrepancy fp S.poly (shiftAux locatorStart) 1 = 0#8 := by
    simp [discrepancy, shiftAux, locatorStart, Syndromes.poly, coeff, xorSum_cons, h2]
  have hd2 : discrepancy fp S.poly (shiftAux (shiftAux locatorStart)) 2 = S.s3 := by
    simp [discrepancy, shiftAux, locatorStart, Syndromes.poly, coeff, xorSum_cons, one_neutral hfp]
  rw [locator_eq_passes, locatorPass_of_discrepancy_zero hd0, locatorPass_of_discrepancy_zero hd1,
    locatorPass_of_longer hd2 h3 hinv (by decide)]
  simp [shiftAux, locatorNew, locatorStart, coeff, List.range_succ, one_neutral hfp]

/-- Syndromes in the constant ratio `x` have the locator `1 + x·z` (R128, R144). -/
theorem locator_of_geometric {S : Syndromes} {x : Byte} (h1 : S.s1 ≠ 0#8) (h2 : S.s2 = gfMul fp x S.s1)
    (h3 : S.s3 = gfMul fp x S.s2) : (locator fp S.poly).lam = [1, x, 0, 0, 0, 0, 0] := by
  obtain ⟨l1, l2, hl1, hl2, hlam, -⟩ := locator_of_s1_ne_zero hfp h1
  have hx : l1 = x := gfMul_left_cancel hfp h1 (by rw [hl1, h2, gfMul_comm])
  have hratio : gfMul fp S.s1 S.s3 = gfMul fp S.s2 S.s2 := by
    rw [h3, gfMul_left_comm hfp, ← gfMul_assoc hfp, ← h2]
  rw [hratio, BitVec.xor_self] at hl2
  have hzero : l2 = 0 := (gfMul_eq_zero hfp hl2).resolve_left (gfMul_ne_zero hfp h1 h1)
  rw [hlam, hx, hzero]

/-- The evaluator written out (R130). -/
theorem evaluatorOf_polyMul_poly (l1 l2 l3 : Byte) (S : Syndromes) :
    evaluatorOf (polyMul fp [1, l1, l2, l3, 0, 0, 0] S.poly) =
      [S.s1, S.s2 ^^^ gfMul fp l1 S.s1, S.s3 ^^^ gfMul fp l1 S.s2 ^^^ gfMul fp l2 S.s1] := by
  simp [evaluatorOf, Config.checksumSize, Config.plen, polyMul, productCoeff, Syndromes.poly, List.range_succ, coeff,
    xorSum_cons, one_neutral hfp, BitVec.xor_assoc]

/-- Case A of R131: the locator is the one that makes the two higher coefficients vanish. -/
theorem evaluator_of_s1_ne_zero {S : Syndromes} (h1 : S.s1 ≠ 0#8) :
    evaluatorOf (polyMul fp (locator fp S.poly).lam S.poly) = [S.s1, 0, 0] := by
  obtain ⟨l1, l2, hl1, hl2, hlam, -⟩ := locator_of_s1_ne_zero hfp h1
  have hlinear : S.s2 ^^^ gfMul fp l1 S.s1 = 0 := by
    rw [gfMul_comm, hl1]
    exact BitVec.xor_self
  have hscaled : gfMul fp S.s1 (S.s3 ^^^ gfMul fp l1 S.s2 ^^^ gfMul fp l2 S.s1) = 0#8 := by
    rw [gfMul_xor_right hfp, gfMul_xor_right hfp, gfMul_comm fp l2, ← gfMul_assoc hfp, ← gfMul_assoc hfp, hl1, hl2]
    exact BitVec.xor_self
  have hquadratic := (gfMul_eq_zero hfp hscaled).resolve_left h1
  rw [hlam, evaluatorOf_polyMul_poly hfp, hlinear, hquadratic]
  rfl

/-- Case B of R131: `S2` meets the constant term of the locator, and `Λ1` takes it to `S3`. -/
theorem evaluator_of_s2_ne_zero {S : Syndromes} (h1 : S.s1 = 0#8) (h2 : S.s2 ≠ 0#8) :
    evaluatorOf (polyMul fp (locator fp S.poly).lam S.poly) = [0, S.s2, 0] := by
  obtain ⟨l1, hl1, hlam, -⟩ := locator_of_s2_ne_zero hfp h1 h2
  rw [hlam, evaluatorOf_polyMul_poly hfp, h1, gfMul_comm fp l1 S.s2, hl1]
  simp

/-- Case C of R131: `S3` meets the constant term of the locator alone. -/
theorem evaluator_of_s3_ne_zero {S : Syndromes} (h1 : S.s1 = 0#8) (h2 : S.s2 = 0#8) (h3 : S.s3 ≠ 0#8) :
    evaluatorOf (polyMul fp (locator fp S.poly).lam S.poly) = [0, 0, S.s3] := by
  obtain ⟨hlam, -⟩ := locator_of_s3_ne_zero hfp h1 h2 h3
  rw [hlam, evaluatorOf_polyMul_poly hfp, h1, h2]
  simp

end Laws

end Sys2Proof.Proofs
end

section
/-! SUPPORT. The Chien search lists the roots of the locator, and what it finds for a locator `1 + X·z`
(spec/42_rs_decode.md R132, R136). -/

namespace Sys2Proof.Proofs

open Sys2Proof.Machine Sys2Proof.Safety

/-- Rising exponents are falling positions (R132). -/
theorem chienSearch_pairwise (fp : BitVec 9) (lam : List Byte) : (chienSearch fp lam).Pairwise fun p q => q < p := by
  have hrising : (chienExponents fp lam).Pairwise (· < ·) := (List.pairwise_lt_range' (s := 1) (n := 255)).filter _
  rw [chienSearch_eq_map, List.pairwise_map]
  refine hrising.imp_of_mem fun {q r} _ hr hlt => ?_
  have hmem := List.mem_range'_1.mp (List.mem_of_mem_filter hr)
  omega

section Roots

variable {fp : BitVec 9} (hfp : fp ∈ Config.fieldPolys)
include hfp

/-- The positions found are those of the roots: position `p` stands for the element `α^(255-p)` (R132). -/
theorem mem_chienSearch_iff {lam : List Byte} (hlen : lam.length = 7) (p : Nat) :
    p ∈ chienSearch fp lam ↔ p ≤ 254 ∧ evalPoly fp lam (gfExp fp (255 - p)) = 0 := by
  have hvalue {r : Nat} (hr : r ≤ 255) : chienValue fp lam r = evalPoly fp lam (gfExp fp r) := by
    rw [chienValue_eq_evalPoly hfp hlen, gfExp_mod hfp hr]
  simp only [chienSearch, List.mem_map, List.mem_filter, List.mem_range'_1, beq_iff_eq]
  constructor
  · rintro ⟨r, ⟨hr, hroot⟩, rfl⟩
    rw [hvalue (by omega)] at hroot
    exact ⟨by omega, by rwa [show 255 - (255 - r) = r by omega]⟩
  · rintro ⟨hp, hroot⟩
    exact ⟨255 - p, ⟨by omega, by rwa [hvalue (by omega)]⟩, by omega⟩

/-- The inverse of `α^i` among the elements the search visits (R96, R132). -/
theorem gfMul_gfExp_eq_one_iff {i p : Nat} (hi : i ≤ 254) (hp : p ≤ 254) :
    gfMul fp (gfExp fp i) (gfExp fp (255 - p)) = 1 ↔ p = i := by
  have hlog {n : Nat} (hn : n ≤ 255) : gfLog fp (gfExp fp n) = some (n % 255) := by
    rw [← gfExp_mod hfp hn, gfLog_gfExp_mod hfp]
  rw [gfMul_of_log (hlog (by omega)) (hlog (by omega))]
  constructor
  · intro hone
    have hexp := gfLog_gfExp_mod hfp (i % 255 + (255 - p) % 255)
    rw [hone, ← gfExp_zero hfp, hlog (by omega), Option.some.injEq] at hexp
    omega
  · rintro rfl
    rw [show (p % 255 + (255 - p) % 255) % 255 = 0 by omega, gfExp_zero hfp]

/-- A locator `1 + α^i·z` has one root, at position `i` (R132, R141). -/
theorem chienSearch_linear {i : Nat} (hi : i ≤ 254) : chienSearch fp [1, gfExp fp i, 0, 0, 0, 0, 0] = [i] := by
  have hnodup : (chienSearch fp [1, gfExp fp i, 0, 0, 0, 0, 0]).Nodup :=
    (chienSearch_pairwise fp _).imp fun h => h.ne'
  refine List.perm_singleton.mp ((List.perm_ext_iff_of_nodup hnodup (List.nodup_singleton i)).mpr fun p => ?_)
  have hvalue (x : Byte) : evalPoly fp [1, gfExp fp i, 0, 0, 0, 0, 0] x = 1 ^^^ gfMul fp (gfExp fp i) x := by
    simp [evalPoly, gfMul_comm fp x]
  rw [mem_chienSearch_iff hfp rfl, hvalue, List.mem_singleton]
  constructor
  · rintro ⟨hp, hroot⟩
    exact (gfMul_gfExp_eq_one_iff hfp hi hp).mp (BitVec.xor_eq_zero_iff.mp hroot).symm
  · rintro rfl
    exact ⟨hi, BitVec.xor_eq_zero_iff.mpr ((gfMul_gfExp_eq_one_iff hfp hi hi).mpr rfl).symm⟩

/-- With locator `1 + X·z` and evaluator `S1` the error value is the `v` with `X·v = S1`, wherever the root is (R136). -/
theorem errorValue_linear {x v s1 : Byte} (hx : x ≠ 0#8) (hv : gfMul fp x v = s1) (i : Nat) :
    errorValue fp [1, x, 0, 0, 0, 0, 0] [s1, 0, 0] i = some v := by
  have hzero : gfExp fp 0 = 1#8 := gfExp_zero hfp
  have hnum (e : Nat) : evaluatorAt fp [s1, 0, 0] e = s1 := by
    simp [evaluatorAt, coeff, xorSum_cons, hzero, one_neutral hfp]
  have hden (e : Nat) : derivativeAt fp [1, x, 0, 0, 0, 0, 0] e = x := by
    simp [derivativeAt, coeff, xorSum_cons, hzero, one_neutral hfp]
  simp only [errorValue, hnum, hden]
  exact (gfDiv_eq_some_iff hfp hx).mpr hv

end Roots

end Sys2Proof.Proofs
end

section
/-! SUPPORT. A changed byte: changing it back, and what the change adds to each syndrome of the word
(spec/42_rs_decode.md R122, R138). -/

namespace Sys2Proof.Proofs

open Sys2Proof.Machine Sys2Proof.Safety

theorem corrupt_cons_zero (b : Byte) (c : List Byte) (e : Byte) : corrupt (b :: c) 0 e = (b ^^^ e) :: c := rfl

theorem corrupt_cons_succ (b : Byte) (c : List Byte) (p : Nat) (e : Byte) :
    corrupt (b :: c) (p + 1) e = b :: corrupt c p e := rfl

@[simp] theorem corrupt_length (c : List Byte) (p : Nat) (e : Byte) : (corrupt c p e).length = c.length :=
  List.length_set

/-- Adding the same error value twice restores the word. -/
theorem corrupt_corrupt (c : List Byte) (p : Nat) (e : Byte) : corrupt (corrupt c p e) p e = c := by
  induction c generalizing p with
  | nil => rfl
  | cons b c ih =>
    cases p with
    | zero => rw [corrupt_cons_zero, corrupt_cons_zero, BitVec.xor_assoc, BitVec.xor_self, BitVec.xor_zero]
    | succ p => rw [corrupt_cons_succ, corrupt_cons_succ, ih]

/-- A correction at position `i` changes the byte at index `11 - i` (R80, R138). -/
theorem correctByte_eq_corrupt (c : List Byte) (i : Nat) (v : Byte) : correctByte c i v = corrupt c (11 - i) v := rfl

section Laws

variable {fp : BitVec 9} (hfp : fp ∈ Config.fieldPolys)
include hfp

/-- Horner's method from any accumulator: what it held counts `x` times per byte to come (R121). -/
theorem foldl_horner (j : Nat) (c : List Byte) (a : Byte) :
    c.foldl (fun acc b => gfMul fp acc (gfExp fp j) ^^^ b) a =
      (gfMul fp (gfExp fp j))^[c.length] a ^^^ horner fp j c := by
  induction c generalizing a with
  | nil => exact BitVec.xor_zero.symm
  | cons b c ih =>
    rw [horner, List.foldl_cons, List.foldl_cons, ih, ih (gfMul fp 0 (gfExp fp j) ^^^ b), iterate_gfMul_xor hfp,
      gfMul_comm, ← Function.iterate_succ_apply]
    simp [BitVec.xor_assoc]

/-- One more leading byte: it counts once per byte behind it (R80, R121). -/
theorem horner_cons (j : Nat) (b : Byte) (c : List Byte) :
    horner fp j (b :: c) = (gfMul fp (gfExp fp j))^[c.length] b ^^^ horner fp j c := by
  rw [horner, List.foldl_cons, foldl_horner hfp]
  simp

/-- A change of one byte adds to the syndrome its value times `x` per byte behind it (R122). -/
theorem horner_corrupt (j : Nat) {c : List Byte} {p : Nat} (hp : p < c.length) (e : Byte) :
    horner fp j (corrupt c p e) = horner fp j c ^^^ (gfMul fp (gfExp fp j))^[c.length - 1 - p] e := by
  induction c generalizing p with
  | nil => cases hp
  | cons b c ih =>
    cases p with
    | zero =>
      rw [corrupt_cons_zero, horner_cons hfp, horner_cons hfp, iterate_gfMul_xor hfp]
      simp only [List.length_cons, Nat.add_sub_cancel, Nat.sub_zero]
      ac_rfl
    | succ p =>
      rw [corrupt_cons_succ, horner_cons hfp, horner_cons hfp, ih (Nat.lt_of_succ_lt_succ hp), corrupt_length,
        BitVec.xor_assoc, List.length_cons, show c.length + 1 - 1 - (p + 1) = c.length - 1 - p by omega]

/-- A single error `e` in a codeword, at index `p`: the syndromes are `e·X`, `e·X²`, `e·X³` for `X = α^(11-p)` (R122). -/
theorem rsSyndromes_corrupt_rsEncode {d : List Byte} (hd : d.length = 9) {p : Nat} (hp : p < 12) (e : Byte) :
    let x := gfExp fp (11 - p)
    rsSyndromes fp (corrupt (rsEncode fp d) p e) =
      { s1 := gfMul fp x e, s2 := gfMul fp x (gfMul fp x e), s3 := gfMul fp x (gfMul fp x (gfMul fp x e)) } := by
  have hlen : (rsEncode fp d).length = 12 := by rw [rsEncode_length, hd]
  obtain ⟨h1, h2, h3⟩ := Syndromes.mk.inj (rsSyndromes_rsEncode hfp d)
  have hshift (j : Nat) (hj : j ≤ 255) (hzero : horner fp j (rsEncode fp d) = 0) :
      horner fp j (corrupt (rsEncode fp d) p e) = (gfMul fp (gfExp fp (11 - p)))^[j] e := by
    rw [horner_corrupt hfp j (by omega), hzero, hlen, iterate_gfMul_gfExp_comm hfp (by omega) hj]
    exact BitVec.zero_xor
  rw [rsSyndromes, hshift 1 (by decide) h1, hshift 2 (by decide) h2, hshift 3 (by decide) h3]
  rfl

end Laws

end Sys2Proof.Proofs
end

section
/-! SUPPORT. The decoder: the word it returns in each of its endings, the word it corrects at a single root, and its run
through the workspace (spec/42_rs_decode.md R139 to R145). -/

namespace Sys2Proof.Proofs

open Sys2Proof.Machine Sys2Proof.Safety

theorem allZero_eq_decide (S : Syndromes) : S.allZero = decide (S.s1 = 0 ∧ S.s2 = 0 ∧ S.s3 = 0) := by
  rw [Bool.eq_iff_iff]
  simp [Syndromes.allZero, and_assoc]

/-- Stages 1 and 2: zero syndromes end the decoder with the word as it came (R125). -/
theorem rsDecode_of_allZero {fp : BitVec 9} {c : List Byte} (h : (rsSyndromes fp c).allZero = true) :
    rsDecode fp 12 c =
      { codeword := some c, errorsFound := 0, uncorrectable := false, syndromesZero := true } := by
  simp [rsDecode, h]

/-- Twelve bytes come back as twelve bytes, and unchanged when the word is uncorrectable (R139). -/
theorem rsDecode_codeword (fp : BitVec 9) (c : List Byte) : ∃ out, (rsDecode fp 12 c).codeword = some out ∧
    out.length = c.length ∧ ((rsDecode fp 12 c).uncorrectable = true → out = c) := by
  simp only [rsDecode]
  split_ifs
  · contradiction
  · exact ⟨c, rfl, rfl, fun _ => rfl⟩
  · exact ⟨c, rfl, rfl, fun _ => rfl⟩
  · exact ⟨c, rfl, rfl, fun _ => rfl⟩
  · exact ⟨c, rfl, rfl, fun _ => rfl⟩
  · split
    · exact ⟨c, rfl, rfl, fun _ => rfl⟩
    · exact ⟨_, rfl, applyCorrections_length _ _ _, fun hunc => by cases hunc⟩

/-- Class A1 with its root in range: syndromes in the ratio `X = α^i` are put down to the byte at position `i`, with the
error value `e` for which `S1 = X·e` (R141, R144). -/
theorem rsDecode_of_single_root {fp : BitVec 9} (hfp : fp ∈ Config.fieldPolys) {c : List Byte} {i : Nat} {e : Byte}
    (hi : i < 12) (he : e ≠ 0#8) (h1 : (rsSyndromes fp c).s1 = gfMul fp (gfExp fp i) e)
    (h2 : (rsSyndromes fp c).s2 = gfMul fp (gfExp fp i) (rsSyndromes fp c).s1)
    (h3 : (rsSyndromes fp c).s3 = gfMul fp (gfExp fp i) (rsSyndromes fp c).s2) :
    rsDecode fp 12 c =
      { codeword := some (corrupt c (11 - i) e), errorsFound := 1, uncorrectable := false, syndromesZero := false } := by
  have hx : gfExp fp i ≠ 0#8 := gfExp_ne_zero hfp (by omega)
  have hs1 : (rsSyndromes fp c).s1 ≠ 0#8 := h1 ▸ gfMul_ne_zero hfp hx he
  have hnonzero : (rsSyndromes fp c).allZero = false := by simp [Syndromes.allZero, hs1]
  have hlam := locator_of_geometric hfp hs1 h2 h3
  have homg := evaluator_of_s1_ne_zero hfp hs1
  rw [hlam] at homg
  have hval : errorValues fp [1, gfExp fp i, 0, 0, 0, 0, 0] [(rsSyndromes fp c).s1, 0, 0] [i] = some [e] := by
    simp only [errorValues, errorValue_linear hfp hx h1.symm]
  have hrange : ¬ 12 ≤ i := by omega
  simp only [rsDecode, hnonzero, hlam, homg, chienSearch_linear hfp (show i ≤ 254 by omega), hval]
  simp [hrange, applyCorrections, correctByte_eq_corrupt]

theorem runStages_cw (fp : BitVec 9) (w : Workspace) : (runStages fp w).cw = w.cw := by
  rw [runStages, runChien, runEvaluator, runProduct, runLocator]

theorem runStages_lam (fp : BitVec 9) (w : Workspace) : (runStages fp w).lam = (locator fp w.syn).lam := by
  rw [runStages, runChien, runEvaluator_lam, runLocator_lam]

theorem runStages_omg (fp : BitVec 9) (w : Workspace) :
    (runStages fp w).omg = evaluatorOf (polyMul fp (locator fp w.syn).lam w.syn) := by
  rw [runStages, runChien, runEvaluator, runProduct, runLocator]

/-- The workspace variant returns what `RSDecF` returns, whatever the workspace held: every element is assigned before it
is read (R145). -/
theorem decodeInWork_result (fp : BitVec 9) (len : Nat) (c : List Byte) (w : Workspace) :
    (decodeInWork fp len c w).2 = rsDecode fp len c := by
  have hzero : synAllZero (runSyndromes fp c (loadCodeword c w)) = (rsSyndromes fp c).allZero := rfl
  have hload : (loadCodeword c w).cw = c := rfl
  have hcw : (runSyndromes fp c (loadCodeword c w)).cw = c := rfl
  have hsyn : (runSyndromes fp c (loadCodeword c w)).syn = (rsSyndromes fp c).poly := rfl
  simp only [decodeInWork, rsDecode, runSelection, codewordResult, hzero, hload, hcw, hsyn, runStages_cw, runStages_lam,
    runStages_omg, runStages_pos]
  split_ifs
  case neg =>
    generalize (locator fp (rsSyndromes fp c).poly).lam = lam
    cases errorValues fp lam (evaluatorOf (polyMul fp lam (rsSyndromes fp c).poly)) (chienSearch fp lam) with
    | none => rfl
    | some val => rfl
  all_goals rfl

/-- Any length but 12 gives no word and is uncorrectable (R124). -/
theorem rsDecode_of_length_ne {len : Nat} (h : len ≠ 12) (fp : BitVec 9) (c : List Byte) :
    rsDecode fp len c =
      { codeword := none, errorsFound := 0, uncorrectable := true, syndromesZero := false } := if_pos h

end Sys2Proof.Proofs
end

section
/-! SUPPORT. The commands `RSSYN` and `RSDEC` as what they store and the flags they set in their frame
(spec/42_rs_decode.md R123, R140). -/

namespace Sys2Proof.Proofs

open Sys2Proof.Machine Sys2Proof.Safety

/-- `RSSYN 12` stores the three syndromes of `IN[0..11]` and reports whether all are zero (R123). -/
theorem exec_rssyn_twelve (s : State) :
    let S := rsSyndromes fieldPoly (inPrefix s 12)
    exec (.rssyn 12) s = .next (setValid (setSz S.allZero (writeOut [S.s1, S.s2, S.s3]
      (setWork (runSyndromes fieldPoly (inPrefix s 12) s.work) (clearFlags s))))) := rfl

/-- The frame around storing `bs` and reporting `SZ` (R16, R123). -/
theorem commandEffect_setSz (sz : Bool) (bs : List Byte) (w : Workspace) (s : State) :
    CommandEffect s (setValid (setSz sz (writeOut bs (setWork w (clearFlags s))))) bs { doneStatus with sz := sz } :=
  ⟨fun k => writeOut_getElem bs (clearFlags s) k k.isLt, rfl, rfl, rfl, rfl, rfl, rfl⟩

/-- What `RSDEC` leaves for a decoder's result, and the workspace `w`: the codeword if there is one, and the three
flags (R16, R140). -/
def afterDecode (r : DecodeResult) (w : Workspace) (s : State) : State :=
  setValid (setDecodeFlags r.errorsFound r.uncorrectable r.syndromesZero
    (writeCodeword r.codeword (setWork w (clearFlags s))))

theorem exec_rsdec (len : Byte) (s : State) : exec (.rsdec len) s =
    .next (afterDecode (rsDecode fieldPoly len.toNat (inPrefix s 12))
      (decodeInWork fieldPoly len.toNat (inPrefix s 12) s.work).1 s) := by
  rw [← decodeInWork_result fieldPoly len.toNat (inPrefix s 12) s.work]
  rfl

/-- The bytes of the decoder's codeword go to `OUT`, none if it returned none (R140). -/
theorem commandEffect_afterDecode (r : DecodeResult) (w : Workspace) (s : State) :
    CommandEffect s (afterDecode r w s) (r.codeword.getD [])
      { doneStatus with
        errcnt := BitVec.ofNat 4 r.errorsFound, unc := r.uncorrectable, sz := r.syndromesZero } := by
  obtain ⟨codeword, n, unc, sz⟩ := r
  cases codeword with
  | none => exact ⟨fun k => rfl, rfl, rfl, rfl, rfl, rfl, rfl⟩
  | some c => exact ⟨fun k => writeOut_getElem c (clearFlags s) k k.isLt, rfl, rfl, rfl, rfl, rfl, rfl⟩

end Sys2Proof.Proofs
end

section
/-! The statements about the Reed-Solomon decoder and its two commands (spec/42_rs_decode.md). -/

namespace Sys2Proof.Proofs

open Sys2Proof.Machine Sys2Proof.Safety

/-- Settles O48: the three passes are followed for each first nonzero syndrome, and each coefficient solves the equation of
its quotient. -/
theorem locatorClosedForm : Obligations.LocatorClosedForm := by
  intro fp hfp S
  refine ⟨fun h1 => ?caseA, fun h1 h2 => ?caseB, fun h1 h2 h3 => ?caseC⟩
  case caseA =>
    obtain ⟨l1, l2, hl1, hl2, hlam, hell⟩ := locator_of_s1_ne_zero hfp h1
    exact ⟨l1, l2, (gfDiv_eq_some_iff hfp h1).mpr hl1, (gfDiv_eq_some_iff hfp (gfMul_ne_zero hfp h1 h1)).mpr hl2,
      hlam, hell⟩
  case caseB =>
    obtain ⟨l1, hl1, hlam, hell⟩ := locator_of_s2_ne_zero hfp h1 h2
    exact ⟨l1, (gfDiv_eq_some_iff hfp h2).mpr hl1, hlam, hell⟩
  case caseC => exact locator_of_s3_ne_zero hfp h1 h2 h3

/-- Settles O49: the closed form of the locator, put into the three low coefficients of its product with the syndromes. -/
theorem evaluatorClosedForm : Obligations.EvaluatorClosedForm := fun _ hfp _ =>
  ⟨evaluator_of_s1_ne_zero hfp, evaluator_of_s2_ne_zero hfp, evaluator_of_s3_ne_zero hfp⟩

/-- Settles O50: the locator has degree at most three, and the search visits every position once, in falling order. -/
theorem chienSearchFindsAtMostThreeRoots : Obligations.ChienSearchFindsAtMostThreeRoots := by
  intro fp hfp S _
  exact ⟨chienSearch_locator_length_le hfp S.poly, chienSearch_pairwise fp _,
    mem_chienSearch_iff hfp (locator_bound fp S.poly).length_lam⟩

/-- Settles O51: a codeword has zero syndromes, and a change of one byte has syndromes in the ratio that names its position,
so the decoder undoes it. -/
theorem everySingleByteErrorIsCorrected : Obligations.EverySingleByteErrorIsCorrected := by
  intro fp hfp d hd
  refine ⟨?clean, ?data, fun p e hp he => ?error, ?zero⟩
  case clean => exact rsDecode_of_allZero (by rw [rsSyndromes_rsEncode hfp]; rfl)
  case data => rw [rsEncode, ← hd, List.take_left]
  case error =>
    have hS := rsSyndromes_corrupt_rsEncode hfp hd hp e
    refine ⟨?corrected, fun hzero => ?detected⟩
    case corrected =>
      have hdecode := rsDecode_of_single_root hfp (show 11 - p < 12 by omega) he (by rw [hS]) (by rw [hS]) (by rw [hS])
      rwa [show 11 - (11 - p) = p by omega, corrupt_corrupt] at hdecode
    case detected =>
      have hs1 := congrArg Syndromes.s1 (hS.symm.trans hzero)
      exact gfMul_ne_zero hfp (gfExp_ne_zero hfp (by omega)) he hs1
  case zero =>
    have hword : rsEncode fp (List.replicate 9 0) = List.replicate 12 0 := by rw [rsEncode, rsRemainder_zeros]; rfl
    rw [← hword]
    exact rsSyndromes_rsEncode hfp _

/-- Settles O40: the command stores the syndromes in its frame and reports whether all are zero; any other length leaves the
raised error alone, and the reserved bits are those from bit 16 up. -/
theorem rssynWritesTheSyndromes : Obligations.RssynWritesTheSyndromes := by
  refine ⟨fun s => ?effect, fun len s hlen => ?wrongLength, fun w hbyte => ?decoded, ?worked⟩
  case effect =>
    refine ⟨_, exec_rssyn_twelve s, ?_⟩
    rw [allZero_eq_decide]
    exact commandEffect_setSz _ _ _ s
  case wrongLength => exact exec_rssyn_length (fun h => hlen (BitVec.eq_of_toNat_eq h)) s
  case decoded => exact decode_of_byte_reserved_from (op := .rssyn) rfl rfl hbyte
  case worked => decide +kernel

/-- Settles O41: the command stores the codeword of `RSDecF` and its flags in the frame, whatever the workspace held; a wrong
length has no codeword to store, and the reserved bits are those from bit 16 up. -/
theorem rsdecWritesTheDecodedCodeword : Obligations.RsdecWritesTheDecodedCodeword := by
  refine ⟨fun s => ?effect, fun len s hlen => ?wrongLength, fun w hbyte => ?decoded, ?stages, ?worked⟩
  case effect =>
    obtain ⟨c, hc, hlen, hunc⟩ := rsDecode_codeword fieldPoly (inPrefix s 12)
    have heffect := commandEffect_afterDecode (rsDecode fieldPoly 12 (inPrefix s 12))
      (decodeInWork fieldPoly 12 (inPrefix s 12) s.work).1 s
    rw [hc, Option.getD_some] at heffect
    exact ⟨_, c, exec_rsdec 12 s, hc, by rw [hlen, inPrefix_length]; rfl, hunc, heffect⟩
  case wrongLength =>
    have hdecode := rsDecode_of_length_ne (fun h => hlen (BitVec.eq_of_toNat_eq h)) fieldPoly (inPrefix s 12)
    have hexec := exec_rsdec len s
    rw [hdecode] at hexec
    exact ⟨_, hexec, commandEffect_afterDecode _ _ s⟩
  case decoded => exact decode_of_byte_reserved_from (op := .rsdec) rfl rfl hbyte
  case stages => decide +kernel
  case worked => decide +kernel

end Sys2Proof.Proofs
end

section
/-! SUPPORT. The commands `CRCCOMP` and `CRCVFY` as what they store and the flags they set in their frame, and a 16-bit value
put together from its two bytes (spec/43_crc.md R153, R155, R157). -/

namespace Sys2Proof.Proofs

open Sys2Proof.Machine Sys2Proof.Safety

/-- A length the register file holds stores the checksum of the span, and leaves the raw value in the workspace (R153). -/
theorem exec_crccomp_of_le {len : Byte} (hlen : len.toNat ≤ Config.inLen) (s : State) :
    exec (.crccomp len) s = .next (setValid (writeOut (halfBytes (crcF crcAlg (inPrefix s len.toNat)))
      (setWork (runCrc crcAlg (inPrefix s len.toNat) s.work) (clearFlags s)))) := by
  rw [exec, execCrccomp, commandFrame_eq, if_neg (Nat.not_lt.mpr hlen)]
  rfl

/-- A length that leaves room for the trailing bytes stores the masked checksum of the span before them, and reports whether
they hold it (R157). -/
theorem exec_crcvfy_of_le {len : Byte} (htwo : 2 ≤ len.toNat) (hlen : len.toNat ≤ Config.inLen) {s : State} {v : Half}
    (hv : crcF crcAlg (inPrefix s (len.toNat - 2)) ^^^ activeMask s = v) :
    exec (.crcvfy len) s = .next (setValid (setCrcok (v == trailingChecksum s len.toNat) (writeOut (halfBytes v)
      (setWork (runCrc crcAlg (inPrefix s (len.toNat - 2)) s.work) (clearFlags s))))) := by
  rw [exec, execCrcvfy, commandFrame_eq, if_neg (not_or.mpr ⟨Nat.not_lt.mpr htwo, Nat.not_lt.mpr hlen⟩)]
  subst hv
  rfl

/-- The frame around storing `bs` and reporting `CRCOK` (R16, R157). -/
theorem commandEffect_setCrcok (ok : Bool) (bs : List Byte) (w : Workspace) (s : State) :
    CommandEffect s (setValid (setCrcok ok (writeOut bs (setWork w (clearFlags s))))) bs { doneStatus with crcok := ok } :=
  ⟨fun k => writeOut_getElem bs (clearFlags s) k k.isLt, rfl, rfl, rfl, rfl, rfl, rfl⟩

/-- The two bytes of a value are the two it was put together from (R83, R155). -/
theorem halfBytes_halfOf (hi lo : Byte) : halfBytes (halfOf hi lo) = [hi, lo] := by
  have hhigh : (halfOf hi lo).extractLsb' 8 8 = hi := by
    ext i h
    simp [halfOf, show 8 + i < 16 by omega, BitVec.getLsbD_eq_getElem h]
  have hlow : (halfOf hi lo).extractLsb' 0 8 = lo := by
    ext i h
    simp [halfOf, h, show i < 16 by omega]
  rw [halfBytes, hhigh, hlow]

/-- Trailing bytes that are the masked checksum of the span before them are stored back, with `CRCOK` set (R156, R157). -/
theorem crcvfy_of_trailingChecksum_eq {len : Byte} (htwo : 2 ≤ len.toNat) (hlen : len.toNat ≤ Config.inLen) {s : State}
    (hmasked : trailingChecksum s len.toNat = crcF crcAlg (inPrefix s (len.toNat - 2)) ^^^ activeMask s) :
    ∃ t, exec (.crcvfy len) s = .next t ∧
      CommandEffect s t [inByte s (len.toNat - 2), inByte s (len.toNat - 1)] { doneStatus with crcok := true } := by
  have hexec := exec_crcvfy_of_le htwo hlen hmasked.symm
  rw [beq_self_eq_true, trailingChecksum, halfBytes_halfOf] at hexec
  exact ⟨_, hexec, commandEffect_setCrcok true _ _ s⟩

end Sys2Proof.Proofs
end

section
/-! The statements about the CRC validator's two commands (spec/43_crc.md). -/

namespace Sys2Proof.Proofs

open Sys2Proof.Machine Sys2Proof.Safety

/-- Settles O60: a mask moves across an equation because it is its own inverse, and trailing bytes that are the masked
checksum pass the comparison of `CRCVFY` and are what it stores. -/
theorem maskedTrailingBytesVerify : Obligations.MaskedTrailingBytesVerify := by
  refine ⟨fun k m T => ?mask, fun len s hi lo htwo hlen hhi hlo hmasked => ?verifies⟩
  case mask =>
    have hinv (x : Half) : x ^^^ m ^^^ m = x := by rw [BitVec.xor_assoc, BitVec.xor_self, BitVec.xor_zero]
    exact ⟨fun h => by rw [← h, hinv], fun h => by rw [h, hinv]⟩
  case verifies =>
    subst hhi hlo
    obtain ⟨t, hexec, hout, hstatus, _⟩ := crcvfy_of_trailingChecksum_eq htwo hlen hmasked
    exact ⟨t, hexec, by rw [hstatus], hout 0, hout 1⟩

/-- Settles O42: the command stores the checksum in its frame, a longer length leaves the raised error alone, and the
reserved bits are those from bit 16 up. -/
theorem crccompWritesTheChecksum : Obligations.CrccompWritesTheChecksum := by
  refine ⟨fun len s hlen => ?effect, fun len s hlen => ?tooLong, fun w hbyte => ?decoded, ?empty, ?worked⟩
  case effect => exact ⟨_, exec_crccomp_of_le hlen s, commandEffect_writeOut _ _ s⟩
  case tooLong => exact exec_crccomp_length hlen s
  case decoded => exact decode_of_byte_reserved_from (op := .crccomp) rfl rfl hbyte
  case empty => exact crcF_nil crcAlg
  case worked => decide +kernel

end Sys2Proof.Proofs
end

section
/-! SUPPORT. The decoder reads back the word the encoder writes for a command: its opcode, and the operand fields of its
format (spec/30_encoding.md R60 to R64, R71). -/

namespace Sys2Proof.Proofs

open Sys2Proof.Machine Sys2Proof.Safety

theorem opField_formatWord (b a op : Byte) : opField (formatWord b a op) = op := by
  ext i hi
  simp [opField, formatWord, hi, show i < 32 by omega, show i < 16 by omega]

theorem aField_formatWord (b a op : Byte) : aField (formatWord b a op) = a := by
  ext i hi
  simp [aField, formatWord, show 8 + i < 32 by omega, show 8 + i < 16 by omega, BitVec.getLsbD_eq_getElem hi]

theorem bField_formatWord (b a op : Byte) : bField (formatWord b a op) = b := by
  ext i hi
  simp [bField, formatWord, show 16 + i < 32 by omega, show 16 + i - 8 = 8 + i by omega,
    BitVec.getLsbD_of_ge op (16 + i) (by omega), BitVec.getLsbD_eq_getElem hi]

/-- The low byte of a command's word is its row's byte (R60, R71). -/
theorem opField_encode (i : Instr) : opField (encode i) = i.opcode.byte := by
  cases i <;> exact opField_formatWord _ _ _

/-- No command's word has a reserved bit set (R71, R73). -/
theorem encode_and_mbz (i : Instr) : encode i &&& i.opcode.mbz = 0 := by
  apply eq_of_beq
  cases i with
  | gfmul a b => exact Laws.ReservedBitsClear.gfmul a b
  | gfinv a => exact Laws.ReservedBitsClear.gfinv a
  | pmul => exact Laws.ReservedBitsClear.pmul
  | rsenc len => exact Laws.ReservedBitsClear.rsenc len
  | rssyn len => exact Laws.ReservedBitsClear.rssyn len
  | rsdec len => exact Laws.ReservedBitsClear.rsdec len
  | crccomp len => exact Laws.ReservedBitsClear.crccomp len
  | crcvfy len => exact Laws.ReservedBitsClear.crcvfy len

/-- The operand fields of a command's word are its operands (R61 to R64). -/
theorem instr_encode (i : Instr) : i.opcode.instr (encode i) = i := by
  cases i <;> simp only [encode, Instr.opcode, Opcode.instr, aField_formatWord, bField_formatWord]

theorem decode_encode (i : Instr) : decode (encode i) = .ok i := by
  rw [decode_of_byte (opField_encode i), if_pos (encode_and_mbz i), instr_encode]

end Sys2Proof.Proofs
end

section
/-! SUPPORT. The code each command and each command word ends with, what an error leaves, and that no command reads a flag
(spec/10_state.md R13, spec/60_exceptions.md R170, R171, R173). -/

namespace Sys2Proof.Proofs

open Sys2Proof.Machine Sys2Proof.Safety

/-- From the state `s`, the outcome `o` is a completion with the code `e`, and with an error nothing but the error is
left. -/
def EndsWith (e : ErrCode) (s : State) (o : Host.Outcome State Fault Refusal) : Prop :=
  ∃ t, o = .next t ∧ t.status.err = e ∧ (e ≠ .none → t = afterError e s)

theorem endsWith_none {s t : State} {o : Host.Outcome State Fault Refusal} (ho : o = .next t)
    (herr : t.status.err = .none) : EndsWith .none s o :=
  ⟨t, ho, herr, fun hne => absurd rfl hne⟩

theorem endsWith_afterError {e : ErrCode} {s : State} {o : Host.Outcome State Fault Refusal}
    (ho : o = .next (afterError e s)) : EndsWith e s o :=
  ⟨_, ho, rfl, fun _ => rfl⟩

/-- Every command completes with the code of the table, and an error leaves nothing else (R170, R171). -/
theorem exec_endsWith_errorOf (i : Instr) (s : State) : EndsWith (errorOf i) s (exec i s) := by
  cases i with
  | gfmul a b => exact endsWith_none (exec_gfmul a b s) rfl
  | gfinv a =>
    rw [errorOf]
    split
    next hzero =>
      subst hzero
      exact endsWith_afterError (exec_gfinv_zero s)
    next hne =>
      obtain ⟨v, hinv, _⟩ := exists_gfInv_of_ne_zero fieldPoly_mem hne
      exact endsWith_none (exec_gfinv_some hinv s) rfl
  | pmul => exact endsWith_none (exec_pmul s) rfl
  | rsenc len =>
    rw [errorOf]
    split
    next hnine =>
      subst hnine
      exact endsWith_none (exec_rsenc_nine s) rfl
    next hne => exact endsWith_afterError (exec_rsenc_length (fun h => hne (BitVec.eq_of_toNat_eq h)) s)
  | rssyn len =>
    rw [errorOf]
    split
    next htwelve =>
      subst htwelve
      exact endsWith_none (exec_rssyn_twelve s) rfl
    next hne => exact endsWith_afterError (exec_rssyn_length (fun h => hne (BitVec.eq_of_toNat_eq h)) s)
  | rsdec len =>
    obtain ⟨_, hstatus, _⟩ := commandEffect_afterDecode (rsDecode fieldPoly len.toNat (inPrefix s 12))
      (decodeInWork fieldPoly len.toNat (inPrefix s 12) s.work).1 s
    exact endsWith_none (exec_rsdec len s) (by rw [hstatus]; rfl)
  | crccomp len =>
    rw [errorOf]
    split
    next hle => exact endsWith_none (exec_crccomp_of_le hle s) rfl
    next hlong => exact endsWith_afterError (exec_crccomp_length (Nat.lt_of_not_le hlong) s)
  | crcvfy len =>
    rw [errorOf]
    split
    next hfits =>
      obtain ⟨htwo, hle⟩ := hfits
      exact endsWith_none (exec_crcvfy_of_le htwo hle rfl) rfl
    next hbad =>
      have hlen : len.toNat < 2 ∨ Config.inLen < len.toNat := by omega
      exact endsWith_afterError (exec_crcvfy_length hlen s)

/-- The code a command word ends with: the decoder's, or that of the command (R173). -/
def wordError (w : Word) : ErrCode :=
  match decode w with
  | .ok i => errorOf i
  | .error e => decodeErrCode e

theorem wordError_of_decode_ok {w : Word} {i : Instr} (h : decode w = .ok i) : wordError w = errorOf i := by
  rw [wordError, h]

theorem wordError_of_decode_error {w : Word} {e : DecodeError} (h : decode w = .error e) :
    wordError w = decodeErrCode e := by
  rw [wordError, h]

theorem performAccess_cmd (w : Word) (s : State) : performAccess (.hostWrite 0x00 (.word w)) s = runCommand w s := rfl

/-- Every word written to `CMD` completes with its code, and an error leaves nothing else (R72, R73, R171, R173). -/
theorem performAccess_cmd_endsWith_wordError (w : Word) (s : State) :
    EndsWith (wordError w) s (performAccess (.hostWrite 0x00 (.word w)) s) := by
  rw [performAccess_cmd]
  cases hdecode : decode w with
  | ok i =>
    rw [wordError_of_decode_ok hdecode, runCommand_of_decode_ok hdecode]
    exact exec_endsWith_errorOf i s
  | error e =>
    rw [wordError_of_decode_error hdecode]
    exact endsWith_afterError (runCommand_of_decode_error hdecode s)

theorem afterDecode_setStatus (r : DecodeResult) (w : Workspace) (s : State) (st : Status) :
    afterDecode r w { s with status := st } = afterDecode r w s := by
  rw [afterDecode, afterDecode]
  cases r.codeword <;> rfl

/-- No command reads a flag: the frame clears all but `VALID` before the body runs, no body reads `VALID`, and the frame
sets it at the end (R13, R16). -/
theorem exec_setStatus (i : Instr) (s : State) (st : Status) : exec i { s with status := st } = exec i s := by
  cases i with
  | gfmul a b => rfl
  | gfinv a =>
    simp only [exec, execGfinv, commandFrame_eq]
    cases gfInv fieldPoly a <;> rfl
  | pmul => rfl
  | rsenc len =>
    simp only [exec, execRsenc, commandFrame_eq]
    split <;> rfl
  | rssyn len =>
    simp only [exec, execRssyn, commandFrame_eq]
    split <;> rfl
  | rsdec len =>
    rw [exec_rsdec, exec_rsdec, afterDecode_setStatus]
    rfl
  | crccomp len =>
    simp only [exec, execCrccomp, commandFrame_eq]
    split <;> rfl
  | crcvfy len =>
    simp only [exec, execCrcvfy, commandFrame_eq]
    split <;> rfl

/-- A command after an error does what it would have done before it (R171). -/
theorem exec_afterError (i : Instr) (e : ErrCode) (s : State) : exec i (afterError e s) = exec i s :=
  exec_setStatus i s (errorStatus e)

end Sys2Proof.Proofs
end

section
/-! The statements about the error codes (spec/60_exceptions.md). -/

namespace Sys2Proof.Proofs

open Sys2Proof.Machine Sys2Proof.Safety

/-- Settles O5: a word ends with the one code its decoding gives, and the decoder looks at the opcode first, then at the
reserved bits. -/
theorem commandErrorPriority : Obligations.CommandErrorPriority := by
  refine ⟨fun s w => ?codes, ?illegalFirst, ?reservedFirst, ?reservedBeforeInvZero⟩
  case codes =>
    obtain ⟨t, hnext, herr, _⟩ := performAccess_cmd_endsWith_wordError w s
    refine ⟨t, hnext, fun hbyte => ?illegal, fun op hbyte hmbz => ?reserved, fun i hword => ?command⟩
    case illegal => exact herr.trans (wordError_of_decode_error (decode_of_illegal hbyte))
    case reserved => exact herr.trans (wordError_of_decode_error (decode_of_reserved hbyte hmbz))
    case command =>
      subst hword
      exact herr.trans (wordError_of_decode_ok (decode_encode i))
  case illegalFirst => exact decode_of_illegal (by decide)
  case reservedFirst => exact decode_of_reserved (op := .rsenc) (by decide) (by decide)
  case reservedBeforeInvZero => exact decode_of_reserved (op := .gfinv) (by decide) (by decide)

/-- Settles O6: the code of each command and of each rejected word, the flags of `RSDEC` at a wrong length, and the field of
the word `STATUS` reads as. -/
theorem errorCodesByCommand : Obligations.ErrorCodesByCommand := by
  refine ⟨fun i s => ?command, fun len s hlen => ?rsdec, fun s w e hdecode => ?rejected, fun st => ?code⟩
  case command =>
    obtain ⟨t, hexec, herr, _⟩ := exec_endsWith_errorOf i s
    exact ⟨t, hexec, herr⟩
  case rsdec =>
    obtain ⟨_, hwrongLength, _⟩ := rsdecWritesTheDecodedCodeword
    obtain ⟨t, hexec, _, hstatus, _⟩ := hwrongLength len s hlen
    exact ⟨t, hexec, by rw [hstatus], by rw [hstatus]; rfl⟩
  case rejected =>
    refine ⟨_, runCommand_of_decode_error hdecode s, ?_⟩
    cases e <;> rfl
  case code =>
    rw [statusWord_errCode]
    cases st.err <;> rfl

/-- Settles O7: a word that ends with an error leaves the error alone, and no command reads what the error wrote. -/
theorem errorLeavesOnlyItsCode : Obligations.ErrorLeavesOnlyItsCode := by
  intro s t w hnext hne
  obtain ⟨t', hnext', herr, halone⟩ := performAccess_cmd_endsWith_wordError w s
  obtain rfl : t' = t := Host.Outcome.next.inj (hnext'.symm.trans hnext)
  rw [← herr] at halone
  have hafter := halone hne
  refine ⟨hafter, fun i => ?_⟩
  rw [hafter]
  exact exec_afterError i _ s

end Sys2Proof.Proofs
end

section
/-! SUPPORT. An accepted word is put back together from its fields: the reserved bits its opcode leaves clear are all that
the fields do not hold (spec/30_encoding.md R60 to R64, R70 to R73). -/

namespace Sys2Proof.Proofs

open Sys2Proof.Machine Sys2Proof.Safety

/-- What the decoder has checked when it answers a command (R70). -/
theorem decode_eq_ok {w : Word} {i : Instr} (h : decode w = .ok i) :
    ∃ op : Opcode, opField w = op.byte ∧ w &&& op.mbz = 0 ∧ i = op.instr w := by
  unfold decode at h
  split at h
  · cases h
  next op hrow =>
    have hbyte : op.byte = opField w := eq_of_beq (List.find?_some (p := fun o : Opcode => o.byte == opField w) hrow)
    split at h
    next hmbz =>
      cases h
      exact ⟨op, hbyte.symm, hmbz, rfl⟩
    next => cases h

/-- A field within a field of zeros is zero. -/
theorem extractLsb'_eq_zero_of_le {w : Word} {n m n' m' : Nat} (h : w.extractLsb' n m = 0) (hn : n ≤ n')
    (hm : n' + m' ≤ n + m) : w.extractLsb' n' m' = 0 := by
  apply BitVec.eq_of_getLsbD_eq
  intro i hi
  have hbit := congrArg (fun v => BitVec.getLsbD v (n' - n + i)) h
  simpa [hi, show n' - n + i < m by omega, show n + (n' - n + i) = n' + i by omega] using hbit

/-- A word whose top byte is clear is its three other bytes (R60, R61). -/
theorem formatWord_fields {w : Word} (h : w.extractLsb' 24 8 = 0) : formatWord (bField w) (aField w) (opField w) = w := by
  apply BitVec.eq_of_getLsbD_eq
  intro i hi
  have htop (hi24 : 24 ≤ i) : w.getLsbD i = false := by
    have hbit := congrArg (fun v => BitVec.getLsbD v (i - 24)) h
    simpa [show i - 24 < 8 by omega, show 24 + (i - 24) = i by omega] using hbit
  simp only [formatWord, bField, aField, opField, BitVec.getLsbD_or, BitVec.getLsbD_shiftLeft, BitVec.getLsbD_setWidth,
    BitVec.getLsbD_extractLsb']
  by_cases h8 : i < 8
  · simp [h8, hi, show i < 16 by omega]
  · by_cases h16 : i < 16
    · simp [h8, h16, hi, show i - 8 < 32 by omega, show i - 8 < 8 by omega, show 8 + (i - 8) = i by omega]
    · by_cases h24 : i < 24
      · simp [h8, h16, hi, show ¬ i - 8 < 8 by omega, show i - 16 < 32 by omega, show i - 16 < 8 by omega,
          show 16 + (i - 16) = i by omega]
      · simp [h8, h16, show ¬ i - 8 < 8 by omega, show ¬ i - 16 < 8 by omega, htop (by omega)]

/-- The encoder writes an accepted word again: what its format leaves out of the word is what the mask checked (R61 to R63,
R73). -/
theorem encode_instr {w : Word} {op : Opcode} (hbyte : opField w = op.byte) (hmbz : w &&& op.mbz = 0) :
    encode (op.instr w) = w := by
  have formatB (hclear : w &&& 0xFFFF0000 = 0) : formatWord 0 (aField w) op.byte = w := by
    have hhigh : w.extractLsb' 16 16 = 0 := (and_ones_shiftLeft_eq_zero_iff w (n := 16) rfl).mp hclear
    have hb : bField w = 0 := extractLsb'_eq_zero_of_le hhigh (by decide) (by decide)
    rw [← hbyte, ← hb]
    exact formatWord_fields (extractLsb'_eq_zero_of_le hhigh (by decide) (by decide))
  cases op with
  | gfmul =>
    have hhigh : w.extractLsb' 24 8 = 0 := (and_ones_shiftLeft_eq_zero_iff w (n := 24) rfl).mp hmbz
    exact (congrArg (formatWord _ _) hbyte.symm).trans (formatWord_fields hhigh)
  | pmul =>
    have hhigh : w.extractLsb' 8 24 = 0 := (and_ones_shiftLeft_eq_zero_iff w (n := 8) rfl).mp hmbz
    have ha : aField w = 0 := extractLsb'_eq_zero_of_le hhigh (by decide) (by decide)
    have hb : bField w = 0 := extractLsb'_eq_zero_of_le hhigh (by decide) (by decide)
    have hword := formatWord_fields (extractLsb'_eq_zero_of_le hhigh (n' := 24) (m' := 8) (by decide) (by decide))
    rwa [ha, hb, hbyte] at hword
  | gfinv => exact formatB hmbz
  | rsenc => exact formatB hmbz
  | rssyn => exact formatB hmbz
  | rsdec => exact formatB hmbz
  | crccomp => exact formatB hmbz
  | crcvfy => exact formatB hmbz

end Sys2Proof.Proofs
end

section
/-! The statements about decoding against encoding (spec/30_encoding.md). -/

namespace Sys2Proof.Proofs

open Sys2Proof.Machine Sys2Proof.Safety

/-- Settles O1: the decoder reads an encoded word back, and the fields of an accepted word are the whole word. -/
theorem decodeAcceptsExactlyEncodedWords : Obligations.DecodeAcceptsExactlyEncodedWords := by
  intro w i
  constructor
  · intro hdecode
    obtain ⟨op, hbyte, hmbz, rfl⟩ := decode_eq_ok hdecode
    exact (encode_instr hbyte hmbz).symm
  · rintro rfl
    exact decode_encode i

/-- Settles O3: each word is the one the encoder writes for the command named. -/
theorem specWordsDecode : Obligations.SpecWordsDecode :=
  ⟨decode_encode (.gfmul 0x02 0x80), decode_encode (.gfinv 0x02), decode_encode .pmul, decode_encode (.rsenc 9),
    decode_encode (.rssyn 12), decode_encode (.rsdec 12), decode_encode (.crccomp 10), decode_encode (.crcvfy 12)⟩

end Sys2Proof.Proofs
end

section
/-! SUPPORT. Every command and every command word as one equation: the bytes it stores in `OUT`, the flags it ends with and
the workspace it leaves, put into the state it found (spec/10_state.md R16, spec/30_encoding.md R75). -/

namespace Sys2Proof.Proofs

open Sys2Proof.Machine Sys2Proof.Safety

/-- What a command writes: the bytes for `OUT[0..]`, `STATUS`, and the workspace. -/
structure CommandResult where
  bytes : List Byte
  status : Status
  work : Workspace

/-- An error stores nothing and leaves the workspace alone (R171, log entry 8). -/
def failedWith (e : ErrCode) (s : State) : CommandResult := { bytes := [], status := errorStatus e, work := s.work }

/-- The state `s` with a command's result in it; nothing else changes. -/
def CommandResult.put (r : CommandResult) (s : State) : State :=
  { s with outBuf := storeFrom s.outBuf 0 r.bytes, status := r.status, work := r.work }

/-- The masked checksum `CRCVFY` compares (R157). -/
def maskedChecksum (len : Byte) (s : State) : Half := crcF crcAlg (inPrefix s (len.toNat - 2)) ^^^ activeMask s

/-- The flags `RSDEC` reports for a decoder's result (R140). -/
def decodeStatus (r : DecodeResult) : Status :=
  { doneStatus with errcnt := BitVec.ofNat 4 r.errorsFound, unc := r.uncorrectable, sz := r.syndromesZero }

/-- What each command writes from the state it finds. -/
def resultOf (i : Instr) (s : State) : CommandResult :=
  match i with
  | .gfmul a b => { bytes := [gfMul fieldPoly a b], status := doneStatus, work := s.work }
  | .gfinv a =>
    match gfInv fieldPoly a with
    | none => failedWith .invZero s
    | some v => { bytes := [v], status := doneStatus, work := s.work }
  | .pmul =>
    { bytes := polyMul fieldPoly (polyOperand1 s) (polyOperand2 s), status := doneStatus,
      work := runProduct fieldPoly (polyOperand1 s) (polyOperand2 s) s.work }
  | .rsenc len =>
    if len = 9 then
      { bytes := rsEncode fieldPoly (inPrefix s 9), status := doneStatus,
        work := runEncoder fieldPoly (inPrefix s 9) s.work }
    else failedWith .invalidLength s
  | .rssyn len =>
    if len = 12 then
      let S := rsSyndromes fieldPoly (inPrefix s 12)
      { bytes := [S.s1, S.s2, S.s3], status := { doneStatus with sz := S.allZero },
        work := runSyndromes fieldPoly (inPrefix s 12) s.work }
    else failedWith .invalidLength s
  | .rsdec len =>
    let r := rsDecode fieldPoly len.toNat (inPrefix s 12)
    { bytes := r.codeword.getD [], status := decodeStatus r,
      work := (decodeInWork fieldPoly len.toNat (inPrefix s 12) s.work).1 }
  | .crccomp len =>
    if len.toNat ≤ Config.inLen then
      { bytes := halfBytes (crcF crcAlg (inPrefix s len.toNat)), status := doneStatus,
        work := runCrc crcAlg (inPrefix s len.toNat) s.work }
    else failedWith .invalidLength s
  | .crcvfy len =>
    if 2 ≤ len.toNat ∧ len.toNat ≤ Config.inLen then
      { bytes := halfBytes (maskedChecksum len s),
        status := { doneStatus with crcok := maskedChecksum len s == trailingChecksum s len.toNat },
        work := runCrc crcAlg (inPrefix s (len.toNat - 2)) s.work }
    else failedWith .invalidLength s

theorem afterDecode_eq_put (r : DecodeResult) (w : Workspace) (s : State) :
    afterDecode r w s = CommandResult.put { bytes := r.codeword.getD [], status := decodeStatus r, work := w } s := by
  rw [afterDecode]
  cases r.codeword <;> rfl

/-- The frame around storing `bs`, as a result put into the state it found (R16). -/
theorem frame_writeOut_eq_put (bs : List Byte) (w : Workspace) (s : State) :
    setValid (writeOut bs (setWork w (clearFlags s))) =
      CommandResult.put { bytes := bs, status := doneStatus, work := w } s := rfl

/-- A command is its result put into the state it found (R16, R75). -/
theorem exec_eq_put (i : Instr) (s : State) : exec i s = .next ((resultOf i s).put s) := by
  cases i with
  | gfmul a b => exact exec_gfmul a b s
  | gfinv a =>
    cases hinv : gfInv fieldPoly a with
    | none =>
      obtain rfl := (gfInv_eq_none_iff fieldPoly a).mp hinv
      exact exec_gfinv_zero s
    | some v =>
      rw [exec_gfinv_some hinv, resultOf, hinv]
      rfl
  | pmul => rw [exec_pmul, frame_writeOut_eq_put, resultOf]
  | rsenc len =>
    rw [resultOf]
    split
    next hnine =>
      subst hnine
      rw [exec_rsenc_nine, frame_writeOut_eq_put]
    next hne => exact exec_rsenc_length (fun h => hne (BitVec.eq_of_toNat_eq h)) s
  | rssyn len =>
    rw [resultOf]
    split
    next htwelve =>
      subst htwelve
      exact exec_rssyn_twelve s
    next hne => exact exec_rssyn_length (fun h => hne (BitVec.eq_of_toNat_eq h)) s
  | rsdec len => rw [exec_rsdec, afterDecode_eq_put, resultOf]
  | crccomp len =>
    rw [resultOf]
    split
    next hle => exact exec_crccomp_of_le hle s
    next hlong => exact exec_crccomp_length (Nat.lt_of_not_le hlong) s
  | crcvfy len =>
    rw [resultOf]
    split
    next hfits => exact exec_crcvfy_of_le hfits.1 hfits.2 rfl
    next hbad =>
      have hlen : len.toNat < 2 ∨ 32 < len.toNat := by
        simp only [Config.inLen] at hbad
        omega
      exact exec_crcvfy_length hlen s

/-- What a word written to `CMD` writes: its command's result, or the decoder's error. -/
def wordResult (w : Word) (s : State) : CommandResult :=
  match decode w with
  | .ok i => resultOf i s
  | .error e => failedWith (decodeErrCode e) s

theorem wordResult_of_decode_ok {w : Word} {i : Instr} (h : decode w = .ok i) (s : State) :
    wordResult w s = resultOf i s := by
  rw [wordResult, h]

theorem wordResult_of_decode_error {w : Word} {e : DecodeError} (h : decode w = .error e) (s : State) :
    wordResult w s = failedWith (decodeErrCode e) s := by
  rw [wordResult, h]

/-- A word written to `CMD` is its result put into the state it found (R14, R16, R72, R73). -/
theorem runCommand_eq_put (w : Word) (s : State) : runCommand w s = .next ((wordResult w s).put s) := by
  cases hdecode : decode w with
  | ok i => rw [runCommand_of_decode_ok hdecode, exec_eq_put, wordResult_of_decode_ok hdecode]
  | error e =>
    rw [runCommand_of_decode_error hdecode, wordResult_of_decode_error hdecode]
    rfl

/-- The flags each command reports are those `ReportedBy` allows it (R13, R15, R16). -/
theorem resultOf_reports (i : Instr) (s : State) : ReportedBy i (resultOf i s).status :=
  exec_reports (exec_eq_put i s)

/-- Every command word sets `VALID`, and leaves a count of three at most (R15, R16). -/
theorem wordResult_valid_and_errcnt_le (w : Word) (s : State) :
    (wordResult w s).status.valid = true ∧ (wordResult w s).status.errcnt.toNat ≤ 3 := by
  cases hdecode : decode w with
  | ok i =>
    rw [wordResult_of_decode_ok hdecode]
    exact ⟨(resultOf_reports i s).valid, (resultOf_reports i s).errcnt_le⟩
  | error e =>
    rw [wordResult_of_decode_error hdecode]
    exact ⟨rfl, Nat.zero_le 3⟩

end Sys2Proof.Proofs
end

section
/-! SUPPORT. What a command's result depends on, and how much of `OUT` it covers: the operand table, row by row
(spec/30_encoding.md R75, spec/10_state.md R13, R17, R18). -/

namespace Sys2Proof.Proofs

open Sys2Proof.Machine Sys2Proof.Safety

/-- The first `n` bytes of `IN` are the same in both states. -/
def SameInputs (n : Nat) (s s' : State) : Prop := ∀ k : Fin Config.inLen, k < n → s.inBuf[k] = s'.inBuf[k]

theorem inPrefix_congr {n m : Nat} {s s' : State} (h : SameInputs n s s') (hm : m ≤ n) :
    inPrefix s m = inPrefix s' m := by
  apply List.ext_getElem
  · simp
  · intro k hk _
    rw [inPrefix_length] at hk
    have hbyte := h ⟨k, by simp only [Config.inLen]; omega⟩ (show k < n by omega)
    simpa [inPrefix] using hbyte

theorem inByte_congr {n i : Nat} {s s' : State} (h : SameInputs n s s') (hi : i < n) : inByte s i = inByte s' i := by
  by_cases hlen : i < 32
  · have hbyte := h ⟨i, hlen⟩ hi
    simpa [inByte, hlen] using hbyte
  · rw [inByte, inByte, List.getD_eq_default _ _ (by simpa using hlen), List.getD_eq_default _ _ (by simpa using hlen)]

theorem trailingChecksum_congr {n : Nat} {s s' : State} (h : SameInputs n s s') (htwo : 2 ≤ n) :
    trailingChecksum s n = trailingChecksum s' n := by
  rw [trailingChecksum, inByte_congr h (by omega), inByte_congr h (by omega), ← trailingChecksum]

theorem polyOperand1_congr {s s' : State} (h : SameInputs 14 s s') : polyOperand1 s = polyOperand1 s' :=
  inPrefix_congr h (by decide)

theorem polyOperand2_eq_drop (s : State) : polyOperand2 s = (inPrefix s 14).drop 7 := by
  rw [polyOperand2, inPrefix, List.drop_take]

theorem polyOperand2_congr {s s' : State} (h : SameInputs 14 s s') : polyOperand2 s = polyOperand2 s' := by
  rw [polyOperand2_eq_drop, polyOperand2_eq_drop, inPrefix_congr h (Nat.le_refl 14)]

theorem activeMask_congr {s s' : State} (h : s.masken = s'.masken ∧ s.mask = s'.mask) : activeMask s = activeMask s' := by
  rw [activeMask, activeMask, h.1, h.2]

/-- The decoder reads no byte of a word of the wrong length (R124, R140). -/
theorem rsDecode_inPrefix_congr {len : Byte} {s s' : State} (h : SameInputs (if len = 12 then 12 else 0) s s') :
    rsDecode fieldPoly len.toNat (inPrefix s 12) = rsDecode fieldPoly len.toNat (inPrefix s' 12) := by
  by_cases htwelve : len = 12
  · rw [if_pos htwelve] at h
    rw [inPrefix_congr h (Nat.le_refl 12)]
  · have hlen : len.toNat ≠ 12 := fun heq => htwelve (BitVec.eq_of_toNat_eq heq)
    rw [rsDecode_of_length_ne hlen, rsDecode_of_length_ne hlen]

/-- A command's bytes and flags depend on the `IN` bytes it names alone, and for `CRCVFY` on the mask (R13, R17, R18,
R75). -/
theorem resultOf_congr {i : Instr} {s s' : State} (hin : SameInputs (inNamed i) s s')
    (hmask : readsMask i = true → s.masken = s'.masken ∧ s.mask = s'.mask) :
    (resultOf i s).bytes = (resultOf i s').bytes ∧ (resultOf i s).status = (resultOf i s').status := by
  cases i with
  | gfmul a b => exact ⟨rfl, rfl⟩
  | gfinv a =>
    simp only [resultOf]
    cases gfInv fieldPoly a <;> exact ⟨rfl, rfl⟩
  | pmul =>
    simp only [resultOf, polyOperand1_congr hin, polyOperand2_congr hin, and_self]
  | rsenc len =>
    simp only [resultOf]
    split
    next hnine =>
      subst hnine
      rw [inPrefix_congr hin (Nat.le_refl 9)]
      exact ⟨rfl, rfl⟩
    next => exact ⟨rfl, rfl⟩
  | rssyn len =>
    simp only [resultOf]
    split
    next htwelve =>
      subst htwelve
      rw [inPrefix_congr hin (Nat.le_refl 12)]
      exact ⟨rfl, rfl⟩
    next => exact ⟨rfl, rfl⟩
  | rsdec len =>
    simp only [resultOf]
    rw [rsDecode_inPrefix_congr hin]
    exact ⟨rfl, rfl⟩
  | crccomp len =>
    simp only [resultOf]
    split
    next hle =>
      rw [inNamed, if_pos hle] at hin
      rw [inPrefix_congr hin (Nat.le_refl _)]
      exact ⟨rfl, rfl⟩
    next => exact ⟨rfl, rfl⟩
  | crcvfy len =>
    simp only [resultOf]
    split
    next hfits =>
      rw [inNamed, if_pos hfits] at hin
      have hsum : maskedChecksum len s = maskedChecksum len s' := by
        rw [maskedChecksum, maskedChecksum, inPrefix_congr hin (Nat.sub_le _ 2), activeMask_congr (hmask rfl)]
      rw [hsum, trailingChecksum_congr hin hfits.1]
      exact ⟨rfl, rfl⟩
    next => exact ⟨rfl, rfl⟩

/-- A command stores no byte beyond those it names (R75). -/
theorem resultOf_bytes_length_le (i : Instr) (s : State) : (resultOf i s).bytes.length ≤ outNamed i := by
  cases i with
  | gfmul a b => exact Nat.le_refl 1
  | gfinv a =>
    simp only [resultOf]
    cases gfInv fieldPoly a <;> simp [failedWith, outNamed]
  | pmul => simp [resultOf, outNamed]
  | rsenc len =>
    simp only [resultOf]
    split <;> simp [failedWith, outNamed]
  | rssyn len =>
    simp only [resultOf]
    split <;> simp [failedWith, outNamed]
  | rsdec len =>
    simp only [resultOf, outNamed]
    split
    next htwelve =>
      subst htwelve
      obtain ⟨out, hout, hlen, _⟩ := rsDecode_codeword fieldPoly (inPrefix s 12)
      rw [show (12 : Byte).toNat = 12 from rfl, hout, Option.getD_some, hlen, inPrefix_length]
      decide
    next hne =>
      rw [rsDecode_of_length_ne fun heq => hne (BitVec.eq_of_toNat_eq heq)]
      exact Nat.le_refl 0
  | crccomp len =>
    simp only [resultOf]
    split <;> simp [failedWith, outNamed]
  | crcvfy len =>
    simp only [resultOf]
    split <;> simp [failedWith, outNamed]

/-- A command that ends without an error stores every byte it names (R75). -/
theorem resultOf_bytes_length {i : Instr} {s : State} (h : (resultOf i s).status.err = .none) :
    (resultOf i s).bytes.length = outNamed i := by
  cases i with
  | gfmul a b => rfl
  | gfinv a =>
    simp only [resultOf] at h ⊢
    cases hinv : gfInv fieldPoly a with
    | none =>
      rw [hinv] at h
      cases h
    | some v => rfl
  | pmul => simp [resultOf, outNamed]
  | rsenc len =>
    simp only [resultOf] at h ⊢
    split at h
    next hnine => rw [if_pos hnine, outNamed, rsEncode_length, inPrefix_length]; rfl
    next => cases h
  | rssyn len =>
    simp only [resultOf] at h ⊢
    split at h
    next htwelve => rw [if_pos htwelve]; rfl
    next => cases h
  | rsdec len =>
    simp only [resultOf, outNamed]
    split
    next htwelve =>
      subst htwelve
      obtain ⟨out, hout, hlen, _⟩ := rsDecode_codeword fieldPoly (inPrefix s 12)
      rw [show (12 : Byte).toNat = 12 from rfl, hout, Option.getD_some, hlen, inPrefix_length]
      rfl
    next hne =>
      rw [rsDecode_of_length_ne fun heq => hne (BitVec.eq_of_toNat_eq heq)]
      rfl
  | crccomp len =>
    simp only [resultOf] at h ⊢
    split at h
    next hle => rw [if_pos hle, outNamed, halfBytes_length]
    next => cases h
  | crcvfy len =>
    simp only [resultOf] at h ⊢
    split at h
    next hfits => rw [if_pos hfits, outNamed, halfBytes_length]
    next => cases h

end Sys2Proof.Proofs
end

section
/-! SUPPORT. The register map both ways, and every step as one of four: idle, a command word, an access to one register, or
the reset event (spec/10_state.md R10, R19, spec/20_memory.md R40, R41, R43, R48). -/

namespace Sys2Proof.Proofs

open Sys2Proof.Machine Sys2Proof.Safety

/-- The index at which a register stands (R11, R14, R15, R17, R18). -/
def indexOf : Reg → BitVec 8
  | .cmd => 0x00
  | .status => 0x01
  | .ctrl => 0x02
  | .crcmask => 0x03
  | .inReg i => inIndex i
  | .outReg i => outIndex i

theorem regAt_indexOf (r : Reg) : regAt (indexOf r) = some r := by
  cases r with
  | inReg i => exact regAt_inIndex i
  | outReg i => exact regAt_outIndex i
  | cmd => rfl
  | status => rfl
  | ctrl => rfl
  | crcmask => rfl

/-- An index selects a register only where that register stands. -/
theorem eq_indexOf_of_regAt {index : BitVec 8} {r : Reg} (h : regAt index = some r) : index = indexOf r := by
  have hlt := index.isLt
  simp only [regAt] at h
  split_ifs at h with h0 h1 h2 h3 hin hout
  all_goals
    obtain rfl := Option.some.inj h
    apply BitVec.eq_of_toNat_eq
  case pos => exact h0
  case pos => exact h1
  case pos => exact h2
  case pos => exact h3
  all_goals
    simp only [indexOf, inIndex, outIndex, BitVec.toNat_ofNat]
    omega

/-- A write that answers a next state found a register at its index. -/
theorem hostWrite_next {index : BitVec 8} {v : BusData} {s t : State} (h : hostWrite index v s = .next t) :
    ∃ r, index = indexOf r ∧ writeReg r v s = .next t := by
  cases hreg : regAt index with
  | none =>
    rw [hostWrite_of_regAt_none hreg] at h
    cases h
  | some r =>
    rw [hostWrite_of_regAt hreg] at h
    exact ⟨r, eq_indexOf_of_regAt hreg, h⟩

/-- A read of a register in its own width answers its value (R41, R43). -/
theorem hostRead_indexOf (r : Reg) (s : State) : hostRead (indexOf r) (regWidth r) s =
    .next { s with replies := { reg := indexOf r, data := readReg s r } :: s.replies } := by
  simp only [hostRead, regAt_indexOf, if_true]

/-- The answers already given are no part of what a register reads as (R41). -/
theorem readReg_replies (s : State) (replies : List Reply) (r : Reg) :
    readReg { s with replies := replies } r = readReg s r := by
  cases r <;> rfl

/-- What an access other than a command word and the reset event leaves alone: everything but `IN`, `CTRL`, `CRCMASK` and
the answers (R11, R44). -/
structure PortFrame (s t : State) : Prop where
  outBuf : t.outBuf = s.outBuf
  status : t.status = s.status
  work : t.work = s.work
  pending : t.pending = s.pending

/-- What a write to the register `r` leaves alone besides (R40). -/
structure WriteFrame (r : Reg) (s t : State) : Prop extends PortFrame s t where
  inBuf : (∀ i, r ≠ .inReg i) → t.inBuf = s.inBuf
  masken : r ≠ .ctrl → t.masken = s.masken
  mask : r ≠ .crcmask → t.mask = s.mask

theorem WriteFrame.refl (r : Reg) (s : State) : WriteFrame r s s :=
  { outBuf := rfl, status := rfl, work := rfl, pending := rfl, inBuf := fun _ => rfl, masken := fun _ => rfl,
    mask := fun _ => rfl }

/-- A write that answers a next state runs a command word or changes one register (R40). -/
theorem writeReg_cases {r : Reg} {v : BusData} {s t : State} (h : writeReg r v s = .next t) :
    (∃ w, r = .cmd ∧ v = .word w ∧ t = (wordResult w s).put s) ∨ (r ≠ .cmd ∧ WriteFrame r s t) := by
  rcases writeReg_next h with ⟨w, rfl, rfl, hrun⟩ | ⟨w, rfl, _, rfl⟩ | ⟨w, rfl, _, rfl⟩ | ⟨w, rfl, _, rfl⟩ |
    ⟨i, b, rfl, _, rfl⟩ | ⟨i, b, rfl, _, rfl⟩
  · rw [runCommand_eq_put] at hrun
    cases hrun
    exact .inl ⟨w, rfl, rfl, rfl⟩
  · exact .inr ⟨Reg.noConfusion, .refl _ _⟩
  · exact .inr ⟨Reg.noConfusion, ⟨rfl, rfl, rfl, rfl⟩, fun _ => rfl, fun hne => absurd rfl hne, fun _ => rfl⟩
  · exact .inr ⟨Reg.noConfusion, ⟨rfl, rfl, rfl, rfl⟩, fun _ => rfl, fun _ => rfl, fun hne => absurd rfl hne⟩
  · exact .inr ⟨Reg.noConfusion, ⟨rfl, rfl, rfl, rfl⟩, fun hne => absurd rfl (hne i), fun _ => rfl, fun _ => rfl⟩
  · exact .inr ⟨Reg.noConfusion, .refl _ _⟩

theorem hostRead_frame {index : BitVec 8} {width : BusWidth} {s t : State} (h : hostRead index width s = .next t) :
    PortFrame s t ∧ t.inBuf = s.inBuf ∧ t.masken = s.masken ∧ t.mask = s.mask := by
  obtain ⟨r, _, _, rfl⟩ := hostRead_next h
  exact ⟨⟨rfl, rfl, rfl, rfl⟩, rfl, rfl, rfl⟩

/-- Index 0 is the index of `CMD` alone (R14). -/
theorem indexOf_ne_zero {r : Reg} (h : r ≠ .cmd) : indexOf r ≠ 0x00 := by
  intro hzero
  have hreg := regAt_indexOf r
  rw [hzero] at hreg
  exact h (Option.some.inj hreg).symm

/-- What a step can do to the state, once the access performed is taken from the list (R10, R44, R48). -/
inductive StepCase (s t : State) : Prop
  | idle (hpending : s.pending = []) (hnext : t = s)
  | command (w : Word) (rest : List Access) (hpending : s.pending = .hostWrite 0x00 (.word w) :: rest)
      (hnext : t = (wordResult w { s with pending := rest }).put { s with pending := rest })
  | port (a : Access) (rest : List Access) (hpending : s.pending = a :: rest) (hcommand : isCommand a = false)
      (hreset : isReset a = false) (hframe : PortFrame { s with pending := rest } t)
  | reset (x : Vector Byte Config.inLen) (y : Vector Byte Config.outLen) (w : Workspace) (rest : List Access)
      (hpending : s.pending = .resetEvent x y w :: rest) (hnext : t = resetBlock x y w { s with pending := rest })

theorem step_cases {s t : State} (h : step s = .next t) : StepCase s t := by
  rcases step_next h with ⟨hpending, hnext⟩ | ⟨index, v, rest, hpending, hwrite⟩ | ⟨index, width, rest, hpending, hread⟩ |
    ⟨x, y, w, rest, hpending, hnext⟩
  · exact .idle hpending hnext
  · obtain ⟨r, rfl, hreg⟩ := hostWrite_next hwrite
    rcases writeReg_cases hreg with ⟨w, rfl, rfl, hnext⟩ | ⟨hne, hframe⟩
    · exact .command w rest hpending hnext
    · exact .port _ rest hpending (beq_eq_false_iff_ne.mpr (indexOf_ne_zero hne)) rfl hframe.toPortFrame
  · exact .port _ rest hpending rfl rfl (hostRead_frame hread).1
  · exact .reset x y w rest hpending hnext

/-- A step performs the oldest access on the state with that access taken away (R48). -/
theorem step_of_pending {s : State} {a : Access} {rest : List Access} (h : s.pending = a :: rest) :
    step s = performAccess a { s with pending := rest } := by
  rw [step, performNext, h]

theorem step_writeIn {s t : State} {i : Fin Config.inLen} {b : Byte} {rest : List Access}
    (hpending : s.pending = .hostWrite (inIndex i.val) (.byte b) :: rest) (h : step s = .next t) :
    t.inBuf = s.inBuf.set i b ∧ t.pending = rest ∧ t.replies = s.replies := by
  rw [step_of_pending hpending, performAccess, hostWrite_of_regAt (regAt_inIndex i)] at h
  cases h
  exact ⟨rfl, rfl, rfl⟩

theorem step_command {s t : State} {w : Word} {rest : List Access}
    (hpending : s.pending = .hostWrite 0x00 (.word w) :: rest) (h : step s = .next t) :
    t.inBuf = s.inBuf ∧ t.pending = rest ∧ t.replies = s.replies := by
  rw [step_of_pending hpending, performAccess_cmd, runCommand_eq_put] at h
  cases h
  exact ⟨rfl, rfl, rfl⟩

theorem step_hostRead {s t : State} {r : Reg} {rest : List Access}
    (hpending : s.pending = .hostRead (indexOf r) (regWidth r) :: rest) (h : step s = .next t) :
    t.replies = { reg := indexOf r, data := readReg s r } :: s.replies := by
  rw [step_of_pending hpending, performAccess, hostRead_indexOf] at h
  cases h
  cases r <;> rfl

theorem step_of_idle {s : State} (h : s.pending = []) : step s = .next s := by
  rw [step, performNext, h]

end Sys2Proof.Proofs
end

section
/-! SUPPORT. Which accesses are answered, and under which name the others are refused (spec/10_state.md R19,
spec/20_memory.md R43). -/

namespace Sys2Proof.Proofs

open Sys2Proof.Machine Sys2Proof.Safety

/-- An access ends as its well-formedness says: with a next state, or refused under one of two names. -/
inductive AnswersIf : Bool → Host.Outcome State Fault Refusal → Prop
  | answered (t : State) : AnswersIf true (.next t)
  | refused (r : Refusal) (h : r = .reservedIndex ∨ r = .accessWidth) : AnswersIf false (.refused r)

/-- A write is answered in the register's own width alone (R43). -/
theorem writeReg_answersIf (r : Reg) (v : BusData) (s : State) :
    AnswersIf (dataWidth v == regWidth r) (writeReg r v s) := by
  cases r <;> cases v
  case cmd.word w =>
    have hrun : writeReg .cmd (.word w) s = .next ((wordResult w s).put s) := runCommand_eq_put w s
    rw [hrun]
    exact .answered _
  case cmd.byte => exact .refused _ (.inr rfl)
  case status.byte => exact .refused _ (.inr rfl)
  case ctrl.byte => exact .refused _ (.inr rfl)
  case crcmask.byte => exact .refused _ (.inr rfl)
  case inReg.word => exact .refused _ (.inr rfl)
  case outReg.word => exact .refused _ (.inr rfl)
  all_goals exact .answered _

theorem performAccess_answersIf (a : Access) (s : State) : AnswersIf (accessWellFormed a) (performAccess a s) := by
  cases a with
  | hostWrite index v =>
    simp only [accessWellFormed, performAccess, hostWrite]
    cases regAt index with
    | none => exact .refused _ (.inl rfl)
    | some r => exact writeReg_answersIf r v s
  | hostRead index width =>
    simp only [accessWellFormed, performAccess, hostRead]
    cases regAt index with
    | none => exact .refused _ (.inl rfl)
    | some r =>
      by_cases hwidth : width = regWidth r
      · simp only [hwidth, beq_self_eq_true, if_true]
        exact .answered _
      · simp only [hwidth, beq_eq_false_iff_ne.mpr hwidth, if_false]
        exact .refused _ (.inr rfl)
  | resetEvent x y w => exact .answered _

theorem AnswersIf.next_iff {b : Bool} {o : Host.Outcome State Fault Refusal} (h : AnswersIf b o) :
    (∃ t, o = .next t) ↔ b = true := by
  cases h <;> simp

theorem AnswersIf.refusal {b : Bool} {o : Host.Outcome State Fault Refusal} (h : AnswersIf b o) {r : Refusal}
    (hr : o = .refused r) : r = .reservedIndex ∨ r = .accessWidth := by
  cases h with
  | answered t => cases hr
  | refused q hq =>
    cases hr
    exact hq

end Sys2Proof.Proofs
end

section
/-! The statements about the register port and its steps (spec/20_memory.md, spec/10_state.md). -/

namespace Sys2Proof.Proofs

open Sys2Proof.Machine Sys2Proof.Safety

/-- Settles O11: the value of each register at its index, and a read changes nothing that a register reads as. -/
theorem hostReadEffects : Obligations.HostReadEffects := by
  refine ⟨fun s => ⟨?cmd, ?status, ?ctrl, ?crcmask, fun i => ?input, fun i => ?output,
    fun index width hreserved => ?reserved⟩, fun s t index width h => ?twice⟩
  case cmd => exact hostRead_indexOf .cmd s
  case status => exact hostRead_indexOf .status s
  case ctrl =>
    have hword : (if s.masken then 1 else 0) = ctrlWord s.masken := by cases s.masken <;> rfl
    rw [hword]
    exact hostRead_indexOf .ctrl s
  case crcmask => exact hostRead_indexOf .crcmask s
  case input => exact hostRead_indexOf (.inReg i) s
  case output => exact hostRead_indexOf (.outReg i) s
  case reserved =>
    apply hostRead_of_regAt_none
    apply regAt_eq_none
    omega
  case twice =>
    obtain ⟨r, hreg, rfl, rfl⟩ := hostRead_next h
    obtain rfl := eq_indexOf_of_regAt hreg
    exact ⟨readReg s r, _, hostRead_indexOf r _,
      congrArg (fun d => Reply.mk _ d :: Reply.mk _ (readReg s r) :: s.replies) (readReg_replies s _ r)⟩

/-- Settles O14: a waiting access is answered or refused as its index and width say, and with none waiting the step is
answered. -/
theorem stepRefusesOnlyIllFormedAccesses : Obligations.StepRefusesOnlyIllFormedAccesses := by
  intro s
  cases hpending : s.pending with
  | nil => simp [step_of_idle hpending]
  | cons a rest =>
    have hanswer := performAccess_answersIf a { s with pending := rest }
    rw [← step_of_pending hpending] at hanswer
    exact ⟨by simpa using hanswer.next_iff, fun r => hanswer.refusal, fun f => nomatch f⟩

/-- Settles O15: a command word leaves `IN`, so the read finds what the write left there. -/
theorem readReturnsTheLatestWrite : Obligations.ReadReturnsTheLatestWrite := by
  intro s t u v i j b w rest hpending hs ht hu
  obtain ⟨htIn, htPending, htReplies⟩ := step_writeIn hpending hs
  obtain ⟨huIn, huPending, huReplies⟩ := step_command htPending ht
  have hread := step_hostRead (r := .inReg j) huPending hu
  rw [hread, huReplies, htReplies]
  have hvalue : u.inBuf[j] = if j = i then b else s.inBuf[j] := by
    rw [huIn, htIn]
    simp [Vector.getElem_set, Fin.ext_iff, eq_comm]
  rw [← hvalue]
  rfl

/-- Settles O18: a command word sets `VALID`, and every access but the reset event leaves it. -/
theorem validStaysSetUntilReset : Obligations.ValidStaysSetUntilReset := by
  intro s t h hvalid
  cases step_cases h with
  | idle _ hnext => exact .inl (hnext ▸ hvalid)
  | command w rest _ hnext =>
    subst hnext
    exact .inl (wordResult_valid_and_errcnt_le w _).1
  | port a rest _ _ _ hframe => exact .inl (by rw [hframe.status]; exact hvalid)
  | reset x y w rest hpending _ => exact .inr ⟨_, rest, hpending, rfl⟩

/-- Settles O29: a command word leaves a count of three at most, the reset event zero, and every other access the count it
found. -/
theorem errcntNeverExceedsThree : Obligations.ErrcntNeverExceedsThree := by
  intro s t hcount h
  cases step_cases h with
  | idle _ hnext => rwa [hnext]
  | command w rest _ hnext =>
    subst hnext
    exact (wordResult_valid_and_errcnt_le w _).2
  | port a rest _ _ _ hframe => rwa [hframe.status]
  | reset x y w rest _ hnext =>
    subst hnext
    exact Nat.zero_le 3

/-- Settles O20: every command word is its result put into the state, which touches `OUT`, `STATUS` and the workspace. -/
theorem everyCommandWordCompletes : Obligations.EveryCommandWordCompletes := fun s w =>
  ⟨_, runCommand_eq_put w s, (wordResult_valid_and_errcnt_le w s).1, rfl, rfl, rfl, rfl, rfl⟩

/-- Settles O8: the oldest access is a write to `CMD`, whose word runs or is rejected as it decodes. -/
theorem stepRunsTheDecodedCommand : Obligations.StepRunsTheDecodedCommand := by
  intro s rest
  refine ⟨fun a hpending => step_of_pending hpending, fun w i hpending hok => ?decoded,
    fun w hpending herr => ?illegal, fun w hpending herr => ?reserved⟩
  case decoded => exact (step_of_pending hpending).trans (runCommand_of_decode_ok hok _)
  case illegal => exact (step_of_pending hpending).trans (runCommand_of_decode_error herr _)
  case reserved => exact (step_of_pending hpending).trans (runCommand_of_decode_error herr _)

/-- Settles O9: an idle step is the model's choice. -/
theorem idleBlockHoldsItsState : Obligations.IdleBlockHoldsItsState := fun _ hpending => step_of_idle hpending

/-- Settles O17: the reset event carries the bytes it leaves. -/
theorem resetEventLeavesInAndOutFree : Obligations.ResetEventLeavesInAndOutFree := fun s x y =>
  ⟨.resetEvent x y s.work, _, rfl, rfl, rfl, rfl, rfl, rfl⟩

/-- Settles O19: a command word writes its result, a write to another index the register there, and a read only the
answers. -/
theorem onlyCommandsAndResetWriteResults : Obligations.OnlyCommandsAndResetWriteResults := by
  intro s t a rest hpending hstep hreset
  rw [step_of_pending hpending] at hstep
  cases a with
  | resetEvent x y w => cases hreset
  | hostRead index width =>
    obtain ⟨hframe, hregs⟩ := hostRead_frame hstep
    exact ⟨fun _ => ⟨hframe.outBuf, hframe.status, hframe.work⟩, fun h => (nomatch h), fun _ _ _ => hregs,
      fun _ _ h => (nomatch h), hframe.pending⟩
  | hostWrite index v =>
    obtain ⟨r, rfl, hreg⟩ := hostWrite_next hstep
    rcases writeReg_cases hreg with ⟨w, rfl, rfl, rfl⟩ | ⟨hne, hframe⟩
    · refine ⟨fun h => (nomatch h), fun _ => ⟨rfl, rfl, rfl⟩, fun _ _ h => (nomatch h), fun _ _ _ => ?_, rfl⟩
      exact ⟨fun _ => rfl, fun _ => rfl, fun _ => rfl⟩
    · have hcommand : isCommand (.hostWrite (indexOf r) v) = false := beq_eq_false_iff_ne.mpr (indexOf_ne_zero hne)
      refine ⟨fun _ => ⟨hframe.outBuf, hframe.status, hframe.work⟩, fun h => ?_, fun _ _ h => (nomatch h),
        fun index' v' h => ?_, hframe.pending⟩
      · rw [hcommand] at h
        cases h
      · cases h
        refine ⟨fun hout => hframe.inBuf ?_, fun hindex => hframe.masken ?_, fun hindex => hframe.mask ?_⟩
        · rintro i rfl
          simp only [indexOf, inIndex, BitVec.toNat_ofNat, Config.inLen] at hout
          omega
        · rintro rfl
          exact hindex rfl
        · rintro rfl
          exact hindex rfl

end Sys2Proof.Proofs
end

section
/-! SUPPORT. The workspace keeps the sizes and ranges of its elements through every stage that writes it
(spec/10_state.md R25, spec/42_rs_decode.md R126 to R138). -/

namespace Sys2Proof.Proofs

open Sys2Proof.Machine Sys2Proof.Safety

/-- The sizes and ranges before pass `n` of the iteration: `L` has grown by one per pass at most, and `K` names a pass done
before (R126, R127). -/
structure LocatorShape (n : Nat) (st : LocatorState) : Prop where
  length_lam : st.lam.length = 7
  length_aux : st.aux.length = 7
  ell_le : st.ell ≤ n
  kay_ge : -1 ≤ st.kay
  kay_lt : st.kay < n

theorem locatorStart_shape : LocatorShape 0 locatorStart where
  length_lam := rfl
  length_aux := rfl
  ell_le := Nat.le_refl 0
  kay_ge := by decide
  kay_lt := by decide

/-- The shift at the end of a pass keeps every size (R127). -/
theorem LocatorShape.shiftAux {n : Nat} {st : LocatorState} (h : LocatorShape n st) : LocatorShape n (shiftAux st) where
  length_lam := h.length_lam
  length_aux := by simp [Machine.shiftAux, h.length_aux]
  ell_le := h.ell_le
  kay_ge := h.kay_ge
  kay_lt := h.kay_lt

theorem LocatorShape.locatorPass {n : Nat} {st : LocatorState} (h : LocatorShape n st) (fp : BitVec 9)
    (syn : List Byte) : LocatorShape (n + 1) (locatorPass fp syn st n) := by
  obtain ⟨hlam, haux, hell, hkay, hlt⟩ := h
  unfold Machine.locatorPass locatorUpdate
  generalize discrepancy fp syn st n = d
  apply LocatorShape.shiftAux
  split
  · exact ⟨hlam, haux, by omega, hkay, by omega⟩
  · split
    · exact ⟨locatorNew_length fp st d, by simp [Config.plen], by simp only; omega, by simp only; omega,
        by simp only; omega⟩
    · exact ⟨locatorNew_length fp st d, haux, by simp only; omega, hkay, by simp only; omega⟩

theorem locator_shape (fp : BitVec 9) (syn : List Byte) : LocatorShape 3 (locator fp syn) :=
  ((locatorStart_shape.locatorPass fp syn).locatorPass fp syn).locatorPass fp syn

section Stages

variable {fp : BitVec 9} {w : Workspace} (h : workShape w)
include h

theorem workShape_runEncoder (data : List Byte) : workShape (runEncoder fp data w) := by
  obtain ⟨hsyn, hlam, haux, hnew, hprod, homg, hcw, _, hrest⟩ := h
  exact ⟨hsyn, hlam, haux, hnew, hprod, homg, hcw, rfl, hrest⟩

theorem workShape_runCrc (alg : Config.CrcAlg) (bs : List Byte) : workShape (runCrc alg bs w) := h

theorem workShape_runSyndromes (c : List Byte) : workShape (runSyndromes fp c w) := by
  obtain ⟨_, hrest⟩ := h
  exact ⟨rfl, hrest⟩

theorem workShape_loadCodeword {c : List Byte} (hc : c.length = 12) : workShape (loadCodeword c w) := by
  obtain ⟨hsyn, hlam, haux, hnew, hprod, homg, _, hrest⟩ := h
  exact ⟨hsyn, hlam, haux, hnew, hprod, homg, hc, hrest⟩

theorem workShape_runProduct (p q : List Byte) : workShape (runProduct fp p q w) := by
  obtain ⟨hsyn, hlam, haux, hnew, _, hrest⟩ := h
  exact ⟨hsyn, hlam, haux, hnew, polyMul_length fp p q, hrest⟩

theorem workShape_runLocator : workShape (runLocator fp w) := by
  obtain ⟨hsyn, _, _, _, hprod, homg, hcw, hpar, hpos, hval, _⟩ := h
  obtain ⟨hlam, haux, hell, hkay, hlt⟩ := locator_shape fp w.syn
  simp only [runLocator]
  generalize locator fp w.syn = st at *
  exact ⟨hsyn, hlam, haux, hlam, hprod, homg, hcw, hpar, hpos, hval, hell, hkay, Int.lt_add_one_iff.mp hlt⟩

theorem workShape_runEvaluator : workShape (runEvaluator fp w) := by
  obtain ⟨hsyn, hlam, haux, hnew, hprod, _, hrest⟩ := workShape_runProduct (fp := fp) h w.lam w.syn
  exact ⟨hsyn, hlam, haux, hnew, hprod, evaluatorOf_length fp w.lam w.syn, hrest⟩

theorem workShape_runChien : workShape (runChien fp w) := by
  obtain ⟨hsyn, hlam, haux, hnew, hprod, homg, hcw, hpar, _, hrest⟩ := h
  exact ⟨hsyn, hlam, haux, hnew, hprod, homg, hcw, hpar, fun _ => chienSearch_le, hrest⟩

theorem workShape_runStages : workShape (runStages fp w) :=
  workShape_runChien (workShape_runEvaluator (workShape_runLocator h))

theorem workShape_runSelection : workShape (runSelection fp w).1 := by
  simp only [runSelection]
  split
  · exact h
  split
  · exact h
  next hfew =>
    split
    · exact h
    split
    · exact h
    next val hval =>
      obtain ⟨hsyn, hlam, haux, hnew, hprod, homg, hcw, hpar, hpos, _, hrest⟩ := h
      refine ⟨hsyn, hlam, haux, hnew, hprod, homg, (applyCorrections_length _ _ _).trans hcw, hpar, hpos, ?_, hrest⟩
      exact (errorValues_length hval).trans_le (Nat.le_of_not_le hfew)

theorem workShape_decodeInWork (len : Nat) {c : List Byte} (hc : c.length = 12) :
    workShape (decodeInWork fp len c w).1 := by
  have hsyndromes := workShape_runSyndromes (fp := fp) (workShape_loadCodeword h hc) (loadCodeword c w).cw
  simp only [decodeInWork]
  split
  · exact h
  split
  · exact hsyndromes
  · exact workShape_runSelection (workShape_runStages hsyndromes)

end Stages

theorem workShape_resultOf (i : Instr) {s : State} (h : workShape s.work) : workShape (resultOf i s).work := by
  cases i with
  | gfmul a b => exact h
  | gfinv a =>
    simp only [resultOf]
    cases gfInv fieldPoly a <;> exact h
  | pmul => exact workShape_runProduct h _ _
  | rsenc len =>
    simp only [resultOf]
    split
    · exact workShape_runEncoder h _
    · exact h
  | rssyn len =>
    simp only [resultOf]
    split
    · exact workShape_runSyndromes h _
    · exact h
  | rsdec len => exact workShape_decodeInWork h _ (inPrefix_length s 12)
  | crccomp len =>
    simp only [resultOf]
    split
    · exact workShape_runCrc h _ _
    · exact h
  | crcvfy len =>
    simp only [resultOf]
    split
    · exact workShape_runCrc h _ _
    · exact h

end Sys2Proof.Proofs
end

section
/-! SUPPORT. The flags a command leaves fit together (spec/10_state.md R13, R15, spec/42_rs_decode.md R139,
spec/60_exceptions.md R171). -/

namespace Sys2Proof.Proofs

open Sys2Proof.Machine Sys2Proof.Safety

theorem statusCoherent_zero : statusCoherent Status.zero := by simp [statusCoherent, Status.zero]

/-- `SZ` alone. -/
theorem statusCoherent_sz (sz : Bool) : statusCoherent { doneStatus with sz := sz } := by
  simp [statusCoherent, doneStatus, Status.zero]

/-- `CRCOK` alone. -/
theorem statusCoherent_crcok (ok : Bool) : statusCoherent { doneStatus with crcok := ok } := by
  simp [statusCoherent, doneStatus, Status.zero]

/-- An error's code alone (R171). -/
theorem statusCoherent_errorStatus (e : ErrCode) : statusCoherent (errorStatus e) := by
  simp [statusCoherent, errorStatus, Status.zero]

/-- A decoder's result reports zero syndromes only for a word that is neither uncorrectable nor has errors (R139). -/
theorem rsDecode_of_syndromesZero {fp : BitVec 9} {len : Nat} {c : List Byte}
    (h : (rsDecode fp len c).syndromesZero = true) :
    (rsDecode fp len c).uncorrectable = false ∧ (rsDecode fp len c).errorsFound = 0 := by
  by_cases hlen : len = 12
  · subst hlen
    cases hzero : (rsSyndromes fp c).allZero with
    | true =>
      rw [rsDecode_of_allZero hzero]
      exact ⟨rfl, rfl⟩
    | false =>
      simp only [rsDecode, hzero, Bool.false_eq_true, if_false] at h
      split_ifs at h
      split at h <;> cases h
  · rw [rsDecode_of_length_ne hlen] at h
    cases h

theorem statusCoherent_decodeStatus (fp : BitVec 9) (len : Nat) (c : List Byte) :
    statusCoherent (decodeStatus (rsDecode fp len c)) := by
  refine ⟨fun h => (nomatch h), fun h => absurd rfl h, fun hsz => ?_, fun h => (nomatch h)⟩
  obtain ⟨hunc, hcount⟩ := rsDecode_of_syndromesZero hsz
  exact ⟨hunc, by rw [decodeStatus, hcount]; rfl⟩

theorem statusCoherent_resultOf (i : Instr) (s : State) : statusCoherent (resultOf i s).status := by
  have hdone : statusCoherent doneStatus := statusCoherent_errorStatus .none
  cases i with
  | gfmul a b => exact hdone
  | gfinv a =>
    simp only [resultOf]
    cases gfInv fieldPoly a with
    | none => exact statusCoherent_errorStatus _
    | some v => exact hdone
  | pmul => exact hdone
  | rsenc len =>
    simp only [resultOf]
    split
    · exact hdone
    · exact statusCoherent_errorStatus _
  | rssyn len =>
    simp only [resultOf]
    split
    · exact statusCoherent_sz _
    · exact statusCoherent_errorStatus _
  | rsdec len => exact statusCoherent_decodeStatus _ _ _
  | crccomp len =>
    simp only [resultOf]
    split
    · exact hdone
    · exact statusCoherent_errorStatus _
  | crcvfy len =>
    simp only [resultOf]
    split
    · exact statusCoherent_crcok _
    · exact statusCoherent_errorStatus _

/-- A command word keeps the invariant's two parts about the block (R171, log entry 8 for a rejected word). -/
theorem wordResult_coherent_and_shape (w : Word) {s : State} (h : workShape s.work) :
    statusCoherent (wordResult w s).status ∧ workShape (wordResult w s).work := by
  cases hdecode : decode w with
  | ok i =>
    rw [wordResult_of_decode_ok hdecode]
    exact ⟨statusCoherent_resultOf i s, workShape_resultOf i h⟩
  | error e =>
    rw [wordResult_of_decode_error hdecode]
    exact ⟨statusCoherent_errorStatus _, h⟩

end Sys2Proof.Proofs
end

section
/-! SUPPORT. The workspace never shows: a step answers alike from states that differ in it at most (spec/10_state.md R25). -/

namespace Sys2Proof.Proofs

open Sys2Proof.Machine Sys2Proof.Safety

/-- `s` with another workspace: what a state that differs from `s` in the workspace at most looks like. -/
theorem sameButWork_iff {s t : State} : SameButWork s t ↔ ∃ w, t = { s with work := w } := by
  constructor
  · intro h
    exact ⟨t.work, h.symm⟩
  · rintro ⟨w, rfl⟩
    rfl

/-- A word's bytes and flags do not depend on the workspace (R25, R145). -/
theorem wordResult_setWork (w : Word) (s : State) (work : Workspace) :
    (wordResult w { s with work := work }).bytes = (wordResult w s).bytes ∧
      (wordResult w { s with work := work }).status = (wordResult w s).status := by
  cases hdecode : decode w with
  | ok i =>
    rw [wordResult_of_decode_ok hdecode, wordResult_of_decode_ok hdecode]
    exact resultOf_congr (fun _ _ => rfl) fun _ => ⟨rfl, rfl⟩
  | error e =>
    rw [wordResult_of_decode_error hdecode, wordResult_of_decode_error hdecode]
    exact ⟨rfl, rfl⟩

theorem runCommand_setWork (w : Word) (s : State) (work : Workspace) :
    OutcomeSameButWork (runCommand w s) (runCommand w { s with work := work }) := by
  obtain ⟨hbytes, hstatus⟩ := wordResult_setWork w s work
  rw [runCommand_eq_put, runCommand_eq_put]
  simp only [OutcomeSameButWork, SameButWork, CommandResult.put, hbytes, hstatus]

theorem writeReg_setWork (r : Reg) (v : BusData) (s : State) (work : Workspace) :
    OutcomeSameButWork (writeReg r v s) (writeReg r v { s with work := work }) := by
  cases r <;> cases v
  case cmd.word w => exact runCommand_setWork w s work
  all_goals rfl

theorem hostRead_setWork (index : BitVec 8) (width : BusWidth) (s : State) (work : Workspace) :
    OutcomeSameButWork (hostRead index width s) (hostRead index width { s with work := work }) := by
  simp only [hostRead]
  cases regAt index with
  | none => rfl
  | some r =>
    simp only
    split
    · cases r <;> rfl
    · rfl

theorem performAccess_setWork (a : Access) (s : State) (work : Workspace) :
    OutcomeSameButWork (performAccess a s) (performAccess a { s with work := work }) := by
  cases a with
  | hostWrite index v =>
    simp only [performAccess, hostWrite]
    cases regAt index with
    | none => rfl
    | some r => exact writeReg_setWork r v s work
  | hostRead index width => exact hostRead_setWork index width s work
  | resetEvent x y w => rfl

theorem step_setWork (s : State) (work : Workspace) : OutcomeSameButWork (step s) (step { s with work := work }) := by
  obtain hpending | ⟨a, rest, hpending⟩ : s.pending = [] ∨ ∃ a rest, s.pending = a :: rest := by
    cases s.pending <;> simp
  · rw [step_of_idle hpending, step_of_idle (s := { s with work := work }) hpending]
    rfl
  · rw [step_of_pending hpending, step_of_pending (s := { s with work := work }) hpending]
    exact performAccess_setWork a { s with pending := rest } work

/-- A run goes on from the next state. -/
theorem run_succ_of_next {n : Nat} {s t : State} (h : step s = .next t) :
    Sys2Proof.core.run (n + 1) s = Sys2Proof.core.run n t := by
  have hstep : Sys2Proof.core.step s = .next t := h
  simp only [Host.Core.run, hstep]

/-- A run ends with the first refusal. -/
theorem run_succ_of_refused {n : Nat} {s : State} {r : Refusal} (h : step s = .refused r) :
    Sys2Proof.core.run (n + 1) s = .refused r := by
  have hstep : Sys2Proof.core.step s = .refused r := h
  simp only [Host.Core.run, hstep]

end Sys2Proof.Proofs
end

section
/-! SUPPORT. `OUT` after a command's result is put into a state (spec/10_state.md R11, spec/30_encoding.md R75). -/

namespace Sys2Proof.Proofs

open Sys2Proof.Machine Sys2Proof.Safety

/-- `OUT[k]` after a command: its byte, or the old one beyond them (R75). -/
theorem put_getElem (r : CommandResult) (s : State) (k : Fin Config.outLen) :
    (r.put s).outBuf[k] = r.bytes.getD k s.outBuf[k] := writeOut_getElem r.bytes s k k.isLt

/-- Storing the same bytes again changes nothing. -/
theorem storeFrom_storeFrom {n : Nat} (v : Vector Byte n) (bs : List Byte) :
    storeFrom (storeFrom v 0 bs) 0 bs = storeFrom v 0 bs := by
  apply Vector.ext
  intro k hk
  rw [storeFrom_getElem _ _ _ _ hk, storeFrom_getElem _ _ _ _ hk, if_pos (Nat.zero_le k), if_pos (Nat.zero_le k)]
  by_cases hlen : k - 0 < bs.length
  · rw [List.getD_eq_getElem _ _ hlen, List.getD_eq_getElem _ _ hlen]
  · rw [List.getD_eq_default _ _ (Nat.le_of_not_lt hlen)]

end Sys2Proof.Proofs
end

section
/-! The statements about what commands read, write and keep (spec/10_state.md, spec/30_encoding.md section 4). -/

namespace Sys2Proof.Proofs

open Sys2Proof.Machine Sys2Proof.Safety

/-- Settles O25: by induction on the number of steps, each of which answers alike whatever the workspace holds. -/
theorem workspaceNeverShows : Obligations.WorkspaceNeverShows := by
  intro n
  induction n with
  | zero => exact fun s t h => h
  | succ n ih =>
    intro s t h
    obtain ⟨work, rfl⟩ := sameButWork_iff.mp h
    have hstep := step_setWork s work
    cases hs : step s with
    | fault f => cases f
    | next s' =>
      cases ht : step { s with work := work } with
      | next t' =>
        rw [hs, ht] at hstep
        rw [run_succ_of_next hs, run_succ_of_next ht]
        exact ih s' t' hstep
      | fault f => cases f
      | refused q =>
        rw [hs, ht] at hstep
        cases hstep
    | refused r =>
      cases ht : step { s with work := work } with
      | next t' =>
        rw [hs, ht] at hstep
        cases hstep
      | fault f => cases f
      | refused q =>
        rw [hs, ht] at hstep
        rw [run_succ_of_refused hs, run_succ_of_refused ht]
        exact hstep

/-- Settles O28: a command word leaves coherent flags and a workspace of the right shape, the reset event zero flags and
the workspace it draws, and every other access leaves both; the accesses still waiting were waiting before. -/
theorem stepKeepsStateInv : Obligations.StepKeepsStateInv := by
  intro s t hinv h
  obtain ⟨hstatus, hwork, hwaiting⟩ := hinv
  cases step_cases h with
  | idle _ hnext =>
    subst hnext
    exact ⟨hstatus, hwork, hwaiting⟩
  | command w rest hpending hnext =>
    subst hnext
    rw [hpending] at hwaiting
    obtain ⟨hstatus', hwork'⟩ := wordResult_coherent_and_shape w (s := { s with pending := rest }) hwork
    exact ⟨hstatus', hwork', fun a ha => hwaiting a (List.mem_cons_of_mem _ ha)⟩
  | port a rest hpending _ _ hframe =>
    rw [hpending] at hwaiting
    refine ⟨by rwa [hframe.status], by rwa [hframe.work], fun b hb => ?_⟩
    rw [hframe.pending] at hb
    exact hwaiting b (List.mem_cons_of_mem _ hb)
  | reset x y w rest hpending hnext =>
    subst hnext
    rw [hpending] at hwaiting
    exact ⟨statusCoherent_zero, hwaiting _ List.mem_cons_self, fun a ha => hwaiting a (List.mem_cons_of_mem _ ha)⟩

/-- Settles O27: the flags are zero, the arrays have their sizes, and nothing waits. -/
theorem stateInvHoldsAtReset : Obligations.StateInvHoldsAtReset :=
  ⟨statusCoherent_zero, by simp [workShape, State.reset, Workspace.zero], fun a ha => by cases ha⟩

/-- Settles O21: a result is put into `OUT`, `STATUS` and the workspace alone, and has no byte beyond those named, none at all
beside an error. -/
theorem commandWritesOnlyWhatItNames : Obligations.CommandWritesOnlyWhatItNames := by
  intro i s
  refine ⟨_, exec_eq_put i s, rfl, rfl, rfl, rfl, rfl, fun k hk => ?beyond, fun herr => ?error, fun hi => ?work⟩
  case beyond =>
    exact (put_getElem _ s k).trans (List.getD_eq_default _ _ ((resultOf_bytes_length_le i s).trans hk))
  case error =>
    obtain ⟨t, hnext, herr', halone⟩ := exec_endsWith_errorOf i s
    cases (exec_eq_put i s).symm.trans hnext
    rw [halone (herr' ▸ herr)]
    rfl
  case work =>
    rcases hi with ⟨a, b, rfl⟩ | ⟨a, rfl⟩
    · rfl
    · simp only [CommandResult.put, resultOf]
      cases gfInv fieldPoly a <;> rfl

/-- Settles O22: bytes and flags depend on the named operands alone, and a command without an error stores every byte it
names. -/
theorem commandReadsOnlyWhatItNames : Obligations.CommandReadsOnlyWhatItNames := by
  intro i s s' t t' h h' hin hmask
  cases (exec_eq_put i s).symm.trans h
  cases (exec_eq_put i s').symm.trans h'
  obtain ⟨hbytes, hstatus⟩ := resultOf_congr (i := i) hin hmask
  refine ⟨hstatus, fun herr k hk => ?_⟩
  have hlen : k < (resultOf i s).bytes.length := (resultOf_bytes_length herr).symm ▸ hk
  rw [put_getElem, put_getElem, ← hbytes, List.getD_eq_getElem _ _ hlen, List.getD_eq_getElem _ _ hlen]

/-- Settles O23: the frame clears the flags before the body runs. -/
theorem pastFlagsNeverMatter : Obligations.PastFlagsNeverMatter := exec_setStatus

/-- Settles O24: the command changes none of its operands, so it stores the same bytes over themselves. -/
theorem repeatedCommandGivesTheSameResult : Obligations.RepeatedCommandGivesTheSameResult := by
  intro i s
  refine ⟨_, _, exec_eq_put i s, exec_eq_put i _, ?_⟩
  obtain ⟨hbytes, hstatus⟩ := resultOf_congr (i := i) (s := (resultOf i s).put s) (s' := s) (fun _ _ => rfl)
    fun _ => ⟨rfl, rfl⟩
  refine ⟨?_, hstatus⟩
  simp only [CommandResult.put] at hbytes ⊢
  rw [hbytes, storeFrom_storeFrom]

/-- Settles O26: every element of the workspace is assigned before it is read. -/
theorem workspaceDecodeIsPure : Obligations.WorkspaceDecodeIsPure := decodeInWork_result

/-- Settles O43: the command stores the masked checksum in its frame and compares it with the trailing bytes; any other
length leaves the raised error alone, and the reserved bits are those from bit 16 up. -/
theorem crcvfyComparesTheMaskedChecksum : Obligations.CrcvfyComparesTheMaskedChecksum := by
  refine ⟨fun len s htwo hlen => ?effect, fun len s hlen => ?wrongLength, fun w hbyte => ?decoded, ?worked⟩
  case effect =>
    have heffect := commandEffect_setCrcok (maskedChecksum len s == trailingChecksum s len.toNat)
      (halfBytes (maskedChecksum len s)) (runCrc crcAlg (inPrefix s (len.toNat - 2)) s.work) s
    exact ⟨_, exec_crcvfy_of_le htwo hlen rfl, heffect⟩
  case wrongLength => exact exec_crcvfy_length hlen s
  case decoded => exact decode_of_byte_reserved_from (op := .crcvfy) rfl rfl hbyte
  case worked => decide +kernel

end Sys2Proof.Proofs
end

section
/-! SUPPORT. The shift-and-reduce product, one bit of the second factor at a time (spec/40_gf_engine.md R101). -/

namespace Sys2Proof.Proofs

open Sys2Proof.Machine Sys2Proof.Safety

/-- Doubling a byte whose bit 7 is clear is a plain shift. -/
theorem xtime_one_shiftLeft (fp : BitVec 9) {k : Nat} (hk : k < 7) : xtime fp (1#8 <<< k) = 1#8 <<< (k + 1) := by
  have hclear : (1#8 <<< k).getLsbD 7 = false := by
    simp [show 7 - k ≠ 0 by omega]
  rw [xtime_eq, hclear, BitVec.shiftLeft_add]
  simp

/-- The bits of a byte from bit `k` up are bit `k` and the bits above it. -/
theorem shiftRight_shiftLeft_eq_xor (b : Byte) (k : Nat) :
    b >>> k <<< k = (if b.getLsbD k then 1#8 <<< k else 0#8) ^^^ (b >>> (k + 1) <<< (k + 1)) := by
  apply BitVec.eq_of_getLsbD_eq
  intro i hi
  rcases Nat.lt_trichotomy i k with h | rfl | h
  · cases b.getLsbD k <;> simp [h, show i < k + 1 by omega]
  · cases hbit : b.getLsbD i <;> simpa [hi] using hbit
  · cases b.getLsbD k <;>
      simp [hi, show ¬ i < k by omega, show ¬ i < k + 1 by omega, show k + (i - k) = i by omega,
        show k + 1 + (i - (k + 1)) = i by omega, show i - k ≠ 0 by omega]

section Laws

variable {fp : BitVec 9} (hfp : fp ∈ Config.fieldPolys)
include hfp

/-- The first eight powers of `α` need no reduction. -/
theorem gfExp_of_lt_eight {k : Nat} (hk : k < 8) : gfExp fp k = 1#8 <<< k := by
  induction k with
  | zero => exact gfExp_zero hfp
  | succ k ih =>
    rw [((rom_cycle fp hfp).2 k (by omega)).1, ih (by omega), xtime_one_shiftLeft fp (by omega)]

/-- Multiplying by the byte with bit `k` alone is `k` doublings (R101). -/
theorem gfMul_one_shiftLeft {k : Nat} (hk : k < 8) (a : Byte) : gfMul fp a (1#8 <<< k) = (xtime fp)^[k] a := by
  rw [gfMul_comm, ← gfExp_of_lt_eight hfp hk, gfMul_gfExp hfp (by omega)]

/-- The loop from bit `k` on multiplies by the bits of `b` from bit `k` up (R101). -/
theorem shiftMulBits_eq_gfMul (a b : Byte) {n k : Nat} (hk : k + n = 8) :
    shiftMulBits fp b n k ((xtime fp)^[k] a) = gfMul fp a (b >>> k <<< k) := by
  induction n generalizing k with
  | zero =>
    obtain rfl : k = 8 := hk
    rw [shiftMulBits, BitVec.shiftLeft_eq_zero (by decide), gfMul_zero_right]
    rfl
  | succ n ih =>
    have hbit : (if b.getLsbD k then (xtime fp)^[k] a else 0) = gfMul fp a (if b.getLsbD k then 1#8 <<< k else 0#8) := by
      split
      · exact (gfMul_one_shiftLeft hfp (by omega) a).symm
      · exact (gfMul_zero_right fp a).symm
    rw [shiftMulBits, ← Function.iterate_succ_apply' (xtime fp), ih (by omega), hbit, ← gfMul_xor_right hfp,
      ← shiftRight_shiftLeft_eq_xor]

end Laws

end Sys2Proof.Proofs
end

section
/-! SUPPORT. Inverses, squares and cubes through the powers of `α` (spec/40_gf_engine.md R101). -/

namespace Sys2Proof.Proofs

open Sys2Proof.Machine Sys2Proof.Safety

/-- All bytes, in order. -/
def allBytes : List Byte := (List.range 256).map (BitVec.ofNat 8)

theorem mem_allBytes (a : Byte) : a ∈ allBytes :=
  List.mem_map.mpr ⟨a.toNat, List.mem_range.mpr a.isLt, BitVec.ofNat_toNat 8 a⟩

theorem allBytes_nodup : allBytes.Nodup := by
  refine List.nodup_range.map_on fun m hm n hn h => ?_
  have hval := congrArg BitVec.toNat h
  rw [List.mem_range] at hm hn
  simpa [Nat.mod_eq_of_lt hm, Nat.mod_eq_of_lt hn] using hval

section Laws

variable {fp : BitVec 9} (hfp : fp ∈ Config.fieldPolys)
include hfp

/-- Powers of `α` multiply by adding exponents (R95). -/
theorem gfMul_gfExp_gfExp (m n : Nat) :
    gfMul fp (gfExp fp (m % 255)) (gfExp fp (n % 255)) = gfExp fp ((m + n) % 255) := by
  rw [gfMul_of_log (gfLog_gfExp_mod hfp m) (gfLog_gfExp_mod hfp n), ← Nat.add_mod]

theorem gfExp_mod_inj {m n : Nat} : gfExp fp (m % 255) = gfExp fp (n % 255) ↔ m % 255 = n % 255 := by
  refine ⟨fun h => ?_, fun h => by rw [h]⟩
  have hlog := gfLog_gfExp_mod hfp m
  rw [h, gfLog_gfExp_mod hfp n] at hlog
  exact (Option.some.inj hlog).symm

/-- Off zero, the inverse of `a` is the byte that takes it to 1 (R96). -/
theorem gfInv_eq_some_of_gfMul_eq_one {a v : Byte} (h : gfMul fp a v = 1) : gfInv fp a = some v := by
  have ha : a ≠ 0#8 := by
    rintro rfl
    cases h
  obtain ⟨u, hinv, hone⟩ := exists_gfInv_of_ne_zero hfp ha
  rw [hinv, gfMul_left_cancel hfp ha (hone.trans h.symm)]

/-- Squaring is injective: a sum of two squares is the square of the sum. -/
theorem gfMul_self_inj {a b : Byte} (h : gfMul fp a a = gfMul fp b b) : a = b := by
  have hsum : gfMul fp (a ^^^ b) (a ^^^ b) = 0#8 := by
    rw [gfMul_xor_left hfp, gfMul_xor_right hfp, gfMul_xor_right hfp, h, gfMul_comm fp b a,
      BitVec.xor_comm (gfMul fp b b), BitVec.xor_self]
  exact BitVec.xor_eq_zero_iff.mp ((gfMul_eq_zero hfp hsum).elim id id)

theorem gfMul_cube_gfExp (n : Nat) :
    gfMul fp (gfExp fp (n % 255)) (gfMul fp (gfExp fp (n % 255)) (gfExp fp (n % 255))) = gfExp fp ((3 * n) % 255) := by
  rw [gfMul_gfExp_gfExp hfp, gfMul_gfExp_gfExp hfp, show n + (n + n) = 3 * n by omega]

/-- The cube roots of `α^(3m)`: three divides 255, so adding 85 to an exponent leaves the cube (R101). -/
theorem gfMul_cube_eq_iff {m : Nat} (hm : m < 85) (a : Byte) :
    gfMul fp a (gfMul fp a a) = gfExp fp ((3 * m) % 255) ↔
      a = gfExp fp (m % 255) ∨ a = gfExp fp ((m + 85) % 255) ∨ a = gfExp fp ((m + 170) % 255) := by
  by_cases ha : a = 0#8
  · subst ha
    have hne (n : Nat) : 0#8 ≠ gfExp fp (n % 255) := (gfExp_ne_zero hfp (by omega)).symm
    simp [hne]
  · obtain ⟨n, rfl⟩ := exists_gfExp_of_ne_zero hfp ha
    rw [gfMul_cube_gfExp hfp, gfExp_mod_inj hfp, gfExp_mod_inj hfp, gfExp_mod_inj hfp, gfExp_mod_inj hfp]
    omega

/-- A nonzero byte is a cube exactly when three divides its logarithm (R101). -/
theorem exists_cube_iff {b : Byte} (hb : b ≠ 0#8) :
    (∃ a, gfMul fp a (gfMul fp a a) = b) ↔ ∃ l, gfLog fp b = some l ∧ l % 3 = 0 := by
  constructor
  · rintro ⟨a, rfl⟩
    have ha : a ≠ 0#8 := by
      rintro rfl
      exact hb rfl
    obtain ⟨n, rfl⟩ := exists_gfExp_of_ne_zero hfp ha
    rw [gfMul_cube_gfExp hfp]
    exact ⟨_, gfLog_gfExp_mod hfp _, by omega⟩
  · rintro ⟨l, hlog, hthree⟩
    obtain ⟨n, rfl⟩ := exists_gfExp_of_ne_zero hfp hb
    rw [gfLog_gfExp_mod hfp, Option.some.injEq] at hlog
    refine ⟨gfExp fp ((l / 3) % 255), ?_⟩
    rw [gfMul_cube_gfExp hfp, gfExp_mod_inj hfp]
    omega

/-- Each cube is hit three times (R101). -/
theorem cubeRoots_length {b : Byte} {l : Nat} (hlog : gfLog fp b = some l) (hthree : l % 3 = 0) :
    (allBytes.filter fun a => gfMul fp a (gfMul fp a a) == b).length = 3 := by
  have hb : b ≠ 0#8 := by
    rintro rfl
    cases hlog
  obtain ⟨n, rfl⟩ := exists_gfExp_of_ne_zero hfp hb
  rw [gfLog_gfExp_mod hfp, Option.some.injEq] at hlog
  obtain ⟨m, hm, hcube⟩ : ∃ m < 85, n % 255 = 3 * m % 255 := ⟨l / 3, by omega, by omega⟩
  have hroots : [gfExp fp (m % 255), gfExp fp ((m + 85) % 255), gfExp fp ((m + 170) % 255)].Nodup := by
    simp only [List.nodup_cons, List.mem_cons, List.not_mem_nil, or_false, gfExp_mod_inj hfp, List.nodup_nil,
      not_false_eq_true, and_true]
    omega
  refine (List.Perm.length_eq ((List.perm_ext_iff_of_nodup (allBytes_nodup.filter _) hroots).mpr fun a => ?_))
  simp only [List.mem_filter, mem_allBytes, true_and, beq_iff_eq, hcube, gfMul_cube_eq_iff hfp hm, List.mem_cons,
    List.not_mem_nil, or_false]

end Laws

end Sys2Proof.Proofs
end

section
/-! SUPPORT. The value of a polynomial product: the convolution's sum is taken over the first index, and each index
contributes a shifted copy of the second polynomial (spec/40_gf_engine.md R99, R101). -/

namespace Sys2Proof.Proofs

open Sys2Proof.Machine Sys2Proof.Safety

theorem xorSum_map_xor {ι : Type} (l : List ι) (f g : ι → Byte) :
    xorSum (l.map fun i => f i ^^^ g i) = xorSum (l.map f) ^^^ xorSum (l.map g) := by
  induction l with
  | nil => exact BitVec.xor_self.symm
  | cons i l ih => simp only [List.map_cons, xorSum_cons, ih, xor_xor_xor_comm]

/-- A double sum can be taken in either order. -/
theorem xorSum_comm {ι κ : Type} (l : List ι) (m : List κ) (f : ι → κ → Byte) :
    xorSum (l.map fun i => xorSum (m.map (f i))) = xorSum (m.map fun j => xorSum (l.map fun i => f i j)) := by
  induction l with
  | nil => exact (xorSum_map_eq_zero fun _ _ => rfl).symm
  | cons i l ih => simp only [List.map_cons, xorSum_cons, ih, xorSum_map_xor]

/-- A sum whose terms are zero outside a window is the sum over the window. -/
theorem xorSum_range_window {i n m : Nat} (h : i + n ≤ m) (f : Nat → Byte) :
    xorSum ((List.range m).map fun k => if i ≤ k ∧ k - i < n then f (k - i) else 0#8) =
      xorSum ((List.range n).map f) := by
  obtain ⟨r, rfl⟩ := Nat.exists_eq_add_of_le h
  have hbelow : xorSum ((List.range i).map fun k => if i ≤ k ∧ k - i < n then f (k - i) else 0#8) = 0#8 :=
    xorSum_map_eq_zero fun k hk => if_neg (by have := List.mem_range.mp hk; omega)
  have habove : xorSum ((List.range r).map fun k =>
      if i ≤ i + n + k ∧ i + n + k - i < n then f (i + n + k - i) else 0#8) = 0#8 :=
    xorSum_map_eq_zero fun k _ => if_neg (by omega)
  have hwithin : (List.range n).map (fun k => if i ≤ i + k ∧ i + k - i < n then f (i + k - i) else 0#8) =
      (List.range n).map f := by
    refine List.map_congr_left fun k hk => ?_
    rw [if_pos ⟨by omega, by have := List.mem_range.mp hk; omega⟩, Nat.add_sub_cancel_left]
  simp only [List.range_add, List.map_append, List.map_map, xorSum_append, Function.comp_def, hbelow, hwithin, habove,
    BitVec.zero_xor, BitVec.xor_zero]

section Laws

variable {fp : BitVec 9} (hfp : fp ∈ Config.fieldPolys)
include hfp

theorem iterate_gfMul_xorSum (x : Byte) (n : Nat) (bs : List Byte) :
    (gfMul fp x)^[n] (xorSum bs) = xorSum (bs.map (gfMul fp x)^[n]) := by
  induction bs with
  | nil => exact Function.iterate_fixed (gfMul_zero_right fp x) n
  | cons b bs ih => rw [xorSum_cons, iterate_gfMul_xor hfp, ih, List.map_cons, xorSum_cons]

theorem iterate_gfMul_gfMul (x : Byte) (n : Nat) (a b : Byte) :
    (gfMul fp x)^[n] (gfMul fp a b) = gfMul fp a ((gfMul fp x)^[n] b) :=
  Function.Commute.iterate_left (gfMul_left_comm hfp x a) n b

/-- The powers of `x` split between two factors. -/
theorem iterate_add_gfMul (x : Byte) (i j : Nat) (a b : Byte) :
    (gfMul fp x)^[i + j] (gfMul fp a b) = gfMul fp ((gfMul fp x)^[i] a) ((gfMul fp x)^[j] b) := by
  rw [Function.iterate_add_apply, iterate_gfMul_gfMul hfp x j, gfMul_comm, iterate_gfMul_gfMul hfp x i, gfMul_comm]

/-- The value of a polynomial as the sum of its terms. -/
theorem evalPoly_eq_xorSum (p : List Byte) (x : Byte) :
    evalPoly fp p x = xorSum ((List.range p.length).map fun k => (gfMul fp x)^[k] (coeff p k)) := by
  induction p with
  | nil => rfl
  | cons c cs ih =>
    rw [evalPoly_cons, ih, gfMul_xorSum hfp, List.length_cons, List.range_succ_eq_map, List.map_cons, xorSum_cons,
      List.map_map, List.map_map]
    simp only [Function.comp_def, ← Function.iterate_succ_apply']
    rfl

/-- The product's value is the product of the values: degree 12 holds every term (R99). -/
theorem evalPoly_polyMul {p q : List Byte} (hp : p.length = 7) (hq : q.length = 7) (x : Byte) :
    evalPoly fp (polyMul fp p q) x = gfMul fp (evalPoly fp p x) (evalPoly fp q x) := by
  have hterm (i k : Nat) :
      (gfMul fp x)^[k] (if i ≤ k ∧ k - i < 7 then gfMul fp (coeff p i) (coeff q (k - i)) else 0#8) =
      if i ≤ k ∧ k - i < 7 then gfMul fp ((gfMul fp x)^[i] (coeff p i)) ((gfMul fp x)^[k - i] (coeff q (k - i)))
      else 0#8 := by
    split
    next hwindow => rw [← iterate_add_gfMul hfp, Nat.add_sub_cancel' hwindow.1]
    next => exact Function.iterate_fixed (gfMul_zero_right fp x) k
  have hshifted (i : Nat) (hi : i < 7) : xorSum ((List.range 13).map fun k =>
      if i ≤ k ∧ k - i < 7 then gfMul fp ((gfMul fp x)^[i] (coeff p i)) ((gfMul fp x)^[k - i] (coeff q (k - i)))
      else 0#8) = gfMul fp ((gfMul fp x)^[i] (coeff p i)) (evalPoly fp q x) := by
    rw [xorSum_range_window (n := 7) (by omega)
      fun j => gfMul fp ((gfMul fp x)^[i] (coeff p i)) ((gfMul fp x)^[j] (coeff q j)),
      evalPoly_eq_xorSum hfp q, hq, gfMul_xorSum hfp, List.map_map]
    rfl
  calc evalPoly fp (polyMul fp p q) x
      = xorSum ((List.range 13).map fun k => (gfMul fp x)^[k] (productCoeff fp p q k)) := by
        rw [evalPoly_eq_xorSum hfp, polyMul_length]
        exact congrArg xorSum (List.map_congr_left fun k hk => by rw [coeff_polyMul fp p q (List.mem_range.mp hk)])
    _ = xorSum ((List.range 13).map fun k => xorSum ((List.range 7).map fun i =>
          if i ≤ k ∧ k - i < 7 then gfMul fp ((gfMul fp x)^[i] (coeff p i)) ((gfMul fp x)^[k - i] (coeff q (k - i)))
          else 0#8)) := by
        simp only [productCoeff, iterate_gfMul_xorSum hfp, List.map_map, Function.comp_def, ← hterm]
        rfl
    _ = xorSum ((List.range 7).map fun i => gfMul fp ((gfMul fp x)^[i] (coeff p i)) (evalPoly fp q x)) := by
        rw [xorSum_comm]
        exact congrArg xorSum (List.map_congr_left fun i hi => hshifted i (List.mem_range.mp hi))
    _ = gfMul fp (evalPoly fp p x) (evalPoly fp q x) := by
        rw [gfMul_comm, evalPoly_eq_xorSum hfp p, hp, gfMul_xorSum hfp, List.map_map]
        simp only [Function.comp_def, gfMul_comm fp (evalPoly fp q x)]

end Laws

end Sys2Proof.Proofs
end

section
/-! The statements about the field and its polynomials (spec/40_gf_engine.md R99, R101). -/

namespace Sys2Proof.Proofs

open Sys2Proof.Machine Sys2Proof.Safety

/-- Settles O31: the loop over the bits of the second factor, started at bit 0 with no doubling done. -/
theorem productIsShiftAndReduce : Obligations.ProductIsShiftAndReduce := by
  intro fp hfp a b
  have hloop := shiftMulBits_eq_gfMul hfp a b (n := 8) (k := 0) rfl
  rw [BitVec.ushiftRight_zero, BitVec.shiftLeft_zero] at hloop
  exact hloop.symm

/-- Settles O32: multiplication by a nonzero byte is some number of doublings, and cubing triples the logarithm modulo
255. -/
theorem fieldLaws : Obligations.FieldLaws := by
  intro fp hfp
  refine ⟨gfMul_comm fp, gfMul_assoc hfp, fun a => ⟨gfMul_one_right hfp a, gfMul_zero_right fp a⟩,
    gfMul_xor_right hfp, fun a b => gfMul_eq_zero hfp, fun a ha => ?inverse,
    gfInv_eq_some_of_gfMul_eq_one hfp (gfMul_one_left hfp 1), fun a b => gfMul_self_inj hfp,
    fun b hb => exists_cube_iff hfp hb, fun b l => cubeRoots_length hfp⟩
  case inverse =>
    obtain ⟨v, hinv, hone⟩ := exists_gfInv_of_ne_zero hfp ha
    exact ⟨v, hinv, hone, gfInv_eq_some_of_gfMul_eq_one hfp (by rw [gfMul_comm, hone])⟩

/-- Settles O34: the sum over all pairs of terms, gathered by the first one. -/
theorem polynomialProductEvaluates : Obligations.PolynomialProductEvaluates := fun _ hfp _ _ x hp hq =>
  evalPoly_polyMul hfp hp hq x

end Sys2Proof.Proofs
end

section
/-! SUPPORT. The checksum's accumulator: a shift respects exclusive-or and, with bit 0 of the generator set, loses nothing
(spec/43_crc.md R151 to R154). -/

namespace Sys2Proof.Proofs

open Sys2Proof.Machine Sys2Proof.Safety

theorem xor_ite_xor (a b : Bool) (z : Half) :
    (if (a ^^ b) = true then z else 0) = (if a then z else 0) ^^^ (if b then z else 0) := by
  cases a <;> cases b <;> simp

/-- A shift as a sum: the bits move up, and the generator is added when bit 15 comes out (R152). -/
theorem crcShift_eq (alg : Config.CrcAlg) (x : Half) :
    crcShift alg x = x <<< 1 ^^^ if x.getLsbD 15 then alg.poly else 0 := by
  rw [crcShift]
  split
  · rfl
  · exact BitVec.xor_zero.symm

theorem crcShift_xor (alg : Config.CrcAlg) (x y : Half) :
    crcShift alg (x ^^^ y) = crcShift alg x ^^^ crcShift alg y := by
  rw [crcShift_eq, crcShift_eq, crcShift_eq, BitVec.shiftLeft_xor_distrib, BitVec.getLsbD_xor, xor_ite_xor]
  ac_rfl

/-- A byte as it enters the accumulator: reflected if the record says so, in the high half (R152). -/
def byteInput (alg : Config.CrcAlg) (b : Byte) : Half :=
  (if alg.refin then b.reverse else b).setWidth 16 <<< 8

theorem crcByte_eq_iterate (alg : Config.CrcAlg) (acc : Half) (b : Byte) :
    crcByte alg acc b = (crcShift alg)^[8] (acc ^^^ byteInput alg b) := rfl

theorem reverse_xor {n : Nat} (x y : BitVec n) : (x ^^^ y).reverse = x.reverse ^^^ y.reverse := by
  ext i hi
  simp [BitVec.getElem_reverse]

theorem byteInput_xor (alg : Config.CrcAlg) (b c : Byte) :
    byteInput alg (b ^^^ c) = byteInput alg b ^^^ byteInput alg c := by
  rw [byteInput, byteInput, byteInput]
  split <;> simp [reverse_xor, BitVec.setWidth_xor, BitVec.shiftLeft_xor_distrib]

theorem setWidth_shiftLeft_inj {b c : Byte} (h : b.setWidth 16 <<< 8 = c.setWidth 16 <<< 8) : b = c := by
  apply BitVec.eq_of_getLsbD_eq
  intro i hi
  have hbit := congrArg (fun v => BitVec.getLsbD v (i + 8)) h
  simpa [show i + 8 < 16 by omega, show i < 16 by omega] using hbit

theorem byteInput_inj {alg : Config.CrcAlg} {b c : Byte} (h : byteInput alg b = byteInput alg c) : b = c := by
  have hin := setWidth_shiftLeft_inj h
  split at hin
  · simpa using congrArg BitVec.reverse hin
  · exact hin

/-- A byte of a sum into the sum of two accumulators (R154). -/
theorem crcByte_xor (alg : Config.CrcAlg) (x y : Half) (b c : Byte) :
    crcByte alg (x ^^^ y) (b ^^^ c) = crcByte alg x b ^^^ crcByte alg y c := by
  have hinput : x ^^^ y ^^^ byteInput alg (b ^^^ c) = (x ^^^ byteInput alg b) ^^^ (y ^^^ byteInput alg c) := by
    rw [byteInput_xor]
    ac_rfl
  rw [crcByte_eq_iterate, hinput, Function.Semiconj₂.iterate (crcShift_xor alg) 8]
  rfl

theorem foldl_crcByte_xor (alg : Config.CrcAlg) {a b : List Byte} (h : a.length = b.length) (x y : Half) :
    (addBytes a b).foldl (crcByte alg) (x ^^^ y) = a.foldl (crcByte alg) x ^^^ b.foldl (crcByte alg) y := by
  induction a generalizing b x y with
  | nil =>
    obtain rfl := List.length_eq_zero_iff.mp h.symm
    rfl
  | cons c a ih =>
    cases b with
    | nil => cases h
    | cons d b =>
      rw [addBytes_cons, List.foldl_cons, List.foldl_cons, List.foldl_cons, crcByte_xor, ih (Nat.succ.inj h)]

theorem addBytes_zeros (a : List Byte) : addBytes a (List.replicate a.length 0) = a := by
  induction a with
  | nil => rfl
  | cons b a ih =>
    rw [List.length_cons, List.replicate_succ, addBytes_cons, ih]
    exact congrArg (· :: a) BitVec.xor_zero

theorem addBytes_length {a b : List Byte} (h : a.length = b.length) : (addBytes a b).length = a.length := by
  simp [addBytes, h]

/-- The raw value of a sum: the starting value is counted three times, that is once (R154). -/
theorem crcRaw_addBytes (alg : Config.CrcAlg) {a b : List Byte} (h : a.length = b.length) :
    crcRaw alg (addBytes a b) = crcRaw alg a ^^^ crcRaw alg b ^^^ crcRaw alg (List.replicate a.length 0) := by
  have hthree : alg.init = alg.init ^^^ alg.init ^^^ alg.init := by rw [BitVec.xor_self, BitVec.zero_xor]
  have hzeros : addBytes (addBytes a b) (List.replicate a.length 0) = addBytes a b := by
    rw [← addBytes_length h]
    exact addBytes_zeros _
  calc crcRaw alg (addBytes a b)
      = (addBytes (addBytes a b) (List.replicate a.length 0)).foldl (crcByte alg) (alg.init ^^^ alg.init ^^^ alg.init) := by
        rw [hzeros, ← hthree]
        rfl
    _ = crcRaw alg a ^^^ crcRaw alg b ^^^ crcRaw alg (List.replicate a.length 0) := by
        rw [foldl_crcByte_xor alg (by rw [addBytes_length h, List.length_replicate]), foldl_crcByte_xor alg h]
        rfl

/-- The final step respects exclusive-or up to `xorout` (R152). -/
theorem crcFinish_xor_xor (alg : Config.CrcAlg) (x y z : Half) :
    crcFinish alg (x ^^^ y ^^^ z) = crcFinish alg x ^^^ crcFinish alg y ^^^ crcFinish alg z := by
  have hout (u v w m : Half) : u ^^^ v ^^^ w ^^^ m = (u ^^^ m) ^^^ (v ^^^ m) ^^^ (w ^^^ m) := by
    calc u ^^^ v ^^^ w ^^^ m = u ^^^ v ^^^ (m ^^^ m) ^^^ (w ^^^ m) := by
          rw [BitVec.xor_self, BitVec.xor_zero, BitVec.xor_assoc]
      _ = (u ^^^ m) ^^^ (v ^^^ m) ^^^ (w ^^^ m) := by ac_rfl
  rw [crcFinish, crcFinish, crcFinish, crcFinish]
  split
  · rw [reverse_xor, reverse_xor, hout]
  · rw [hout]

theorem crcFinish_inj {alg : Config.CrcAlg} {x y : Half} (h : crcFinish alg x = crcFinish alg y) : x = y := by
  have hraw := (BitVec.xor_left_inj _).mp h
  split at hraw
  · simpa using congrArg BitVec.reverse hraw
  · exact hraw

/-- With bit 0 of the generator set a shift sends nothing but zero to zero: what comes out at bit 15 shows at bit 0 (R154). -/
theorem eq_zero_of_crcShift_eq_zero {alg : Config.CrcAlg} (hpoly : alg.poly.getLsbD 0 = true) {x : Half}
    (h : crcShift alg x = 0) : x = 0 := by
  rw [crcShift_eq] at h
  have htop : x.getLsbD 15 = false := by
    cases hout : x.getLsbD 15 with
    | false => rfl
    | true =>
      have hzero := congrArg (fun v => BitVec.getLsbD v 0) h
      simp only [hout, if_true, BitVec.getLsbD_xor, hpoly] at hzero
      simp at hzero
  rw [htop, if_neg Bool.false_ne_true] at h
  apply BitVec.eq_of_getLsbD_eq
  intro i hi
  rcases Nat.lt_or_eq_of_le (Nat.le_of_lt_succ hi) with hlow | rfl
  · have hup := congrArg (fun v => BitVec.getLsbD v (i + 1)) h
    simpa [show i + 1 < 16 by omega, BitVec.getLsbD_eq_getElem hi] using hup
  · rw [htop]
    rfl

theorem crcShift_injective {alg : Config.CrcAlg} (hpoly : alg.poly.getLsbD 0 = true) :
    Function.Injective (crcShift alg) := by
  intro x y h
  rw [← BitVec.xor_eq_zero_iff]
  apply eq_zero_of_crcShift_eq_zero hpoly
  rw [crcShift_xor, h]
  exact BitVec.xor_self

theorem crcByte_inj {alg : Config.CrcAlg} (hpoly : alg.poly.getLsbD 0 = true) {x y : Half} {b c : Byte}
    (h : crcByte alg x b = crcByte alg y c) : x ^^^ byteInput alg b = y ^^^ byteInput alg c :=
  (crcShift_injective hpoly).iterate 8 h

/-- Equal bytes keep two different accumulators different (R154). -/
theorem foldl_crcByte_inj {alg : Config.CrcAlg} (hpoly : alg.poly.getLsbD 0 = true) {bs : List Byte} {x y : Half}
    (h : bs.foldl (crcByte alg) x = bs.foldl (crcByte alg) y) : x = y := by
  induction bs generalizing x y with
  | nil => exact h
  | cons b bs ih => exact (BitVec.xor_left_inj _).mp (crcByte_inj hpoly (ih h))

theorem foldl_crcByte_corrupt {alg : Config.CrcAlg} (hpoly : alg.poly.getLsbD 0 = true) {bs : List Byte} {j : Nat}
    (hj : j < bs.length) {e : Byte} {x : Half}
    (h : (corrupt bs j e).foldl (crcByte alg) x = bs.foldl (crcByte alg) x) : e = 0#8 := by
  induction bs generalizing j x with
  | nil => cases hj
  | cons b bs ih =>
    cases j with
    | zero =>
      have hbyte : b ^^^ e = b := byteInput_inj ((BitVec.xor_right_inj _).mp (crcByte_inj hpoly
        (foldl_crcByte_inj hpoly h)))
      simpa using hbyte
    | succ j => exact ih (Nat.lt_of_succ_lt_succ hj) h

/-- Any change of one byte changes the checksum (R154). -/
theorem crcF_corrupt_ne {alg : Config.CrcAlg} (hpoly : alg.poly.getLsbD 0 = true) {bs : List Byte} {j : Nat}
    (hj : j < bs.length) {e : Byte} (he : e ≠ 0#8) : crcF alg (corrupt bs j e) ≠ crcF alg bs := fun h =>
  he (foldl_crcByte_corrupt hpoly hj (crcFinish_inj h))

theorem one_shiftLeft_ne_zero {k : Nat} (hk : k < 8) : 1#8 <<< k ≠ 0#8 := by
  intro h
  have hbit := congrArg (fun v => BitVec.getLsbD v k) h
  simp [hk] at hbit

/-- Zero bytes leave a zero accumulator zero, for every generator (R154). -/
theorem foldl_crcByte_zeros (alg : Config.CrcAlg) (n : Nat) :
    (List.replicate n 0#8).foldl (crcByte alg) 0 = 0 := by
  have hbyte : crcByte alg 0 0#8 = 0 := by
    have hinput : (0 : Half) ^^^ byteInput alg 0#8 = 0 := by
      rw [byteInput]
      split <;> decide
    rw [crcByte_eq_iterate, hinput, Function.iterate_fixed rfl]
  induction n with
  | zero => rfl
  | succ n ih => rw [List.replicate_succ, List.foldl_cons, hbyte, ih]

end Sys2Proof.Proofs
end

section
/-! SUPPORT. One bit of `IN` inverted: what it does to the span and to the trailing bytes of a PDU (spec/43_crc.md R155,
R158). -/

namespace Sys2Proof.Proofs

open Sys2Proof.Machine Sys2Proof.Safety

/-- `s` with bit `k` of `IN[j]` inverted. -/
def flipIn (j : Fin Config.inLen) (k : Nat) (s : State) : State :=
  { s with inBuf := s.inBuf.set j (s.inBuf[j] ^^^ (1 <<< k)) }

theorem inPrefix_flipIn_of_lt {j : Fin Config.inLen} {n : Nat} (hj : j < n) (k : Nat) (s : State) :
    inPrefix (flipIn j k s) n = flipBit (inPrefix s n) j k := by
  have hbyte : coeff (inPrefix s n) j = s.inBuf[j] := by
    simp [coeff, inPrefix, hj]
  rw [flipBit, corrupt, hbyte, inPrefix, flipIn, Vector.toList_set, List.take_set]
  rfl

theorem inPrefix_flipIn_of_le {j : Fin Config.inLen} {n : Nat} (hj : n ≤ j) (k : Nat) (s : State) :
    inPrefix (flipIn j k s) n = inPrefix s n := by
  rw [inPrefix, flipIn, Vector.toList_set, List.take_set, List.set_eq_of_length_le]
  · rfl
  · exact (List.length_take_le n _).trans hj

theorem inByte_flipIn_of_ne {j : Fin Config.inLen} {i : Nat} (h : i ≠ j) (k : Nat) (s : State) :
    inByte (flipIn j k s) i = inByte s i := by
  simp [inByte, flipIn, Vector.toList_set, h.symm]

theorem inByte_flipIn_self (j : Fin Config.inLen) {k : Nat} (hk : k < 8) (s : State) :
    inByte (flipIn j k s) j ≠ inByte s j := by
  have hbyte : inByte (flipIn j k s) j = inByte s j ^^^ (1#8 <<< k) := by
    rw [inByte, flipIn, Vector.toList_set, List.getD_eq_getElem _ _ (by simp), List.getElem_set_self, inByte,
      List.getD_eq_getElem _ _ (by simp), Vector.getElem_toList]
    rfl
  rw [hbyte]
  intro h
  exact one_shiftLeft_ne_zero hk (by simpa using h)

/-- Two trailing checksums are equal only byte by byte (R155). -/
theorem inByte_eq_of_trailingChecksum_eq {s s' : State} {n : Nat}
    (h : trailingChecksum s n = trailingChecksum s' n) :
    inByte s (n - 2) = inByte s' (n - 2) ∧ inByte s (n - 1) = inByte s' (n - 1) := by
  have hbytes := congrArg halfBytes h
  rw [trailingChecksum, trailingChecksum, halfBytes_halfOf, halfBytes_halfOf] at hbytes
  simpa using hbytes

/-- An inverted bit of the span changes the checksum, one of the trailing bytes changes what it is compared with
(R158). -/
theorem maskedChecksum_flipIn_ne {len : Byte} {s : State} (htwo : 2 ≤ len.toNat)
    (hok : maskedChecksum len s = trailingChecksum s len.toNat) {j : Fin Config.inLen} {k : Nat} (hj : j < len.toNat)
    (hk : k < 8) : maskedChecksum len (flipIn j k s) ≠ trailingChecksum (flipIn j k s) len.toNat := by
  intro hflip
  rcases Nat.lt_or_ge j (len.toNat - 2) with hspan | htrail
  · have hsame : trailingChecksum (flipIn j k s) len.toNat = trailingChecksum s len.toNat := by
      rw [trailingChecksum, inByte_flipIn_of_ne (by omega), inByte_flipIn_of_ne (by omega), ← trailingChecksum]
    rw [hsame, ← hok, maskedChecksum, maskedChecksum, inPrefix_flipIn_of_lt hspan] at hflip
    have hlen : j.val < (inPrefix s (len.toNat - 2)).length := by
      rw [inPrefix_length]
      exact lt_min hspan j.isLt
    exact crcF_corrupt_ne (alg := crcAlg) (by decide) hlen (one_shiftLeft_ne_zero hk) ((BitVec.xor_left_inj _).mp hflip)
  · have hsame : maskedChecksum len (flipIn j k s) = maskedChecksum len s := by
      rw [maskedChecksum, inPrefix_flipIn_of_le htrail]
      rfl
    rw [hsame, hok] at hflip
    obtain ⟨hhigh, hlow⟩ := inByte_eq_of_trailingChecksum_eq hflip
    rcases show j.val = len.toNat - 2 ∨ j.val = len.toNat - 1 by omega with h | h
    · exact inByte_flipIn_self j hk s (h ▸ hhigh.symm)
    · exact inByte_flipIn_self j hk s (h ▸ hlow.symm)

end Sys2Proof.Proofs
end

section
/-! The statements about what the checksum detects (spec/43_crc.md R154, R158). -/

namespace Sys2Proof.Proofs

open Sys2Proof.Machine Sys2Proof.Safety

/-- Settles O58: the accumulator is linear in its start and its bytes, and loses nothing when bit 0 of the generator is
set. -/
theorem checksumIsAffineAndSeesEveryBit : Obligations.ChecksumIsAffineAndSeesEveryBit := by
  refine ⟨fun alg a b h => ?affine, fun alg bs j k hpoly hj hk => ?oneBit, fun n => ?zeros⟩
  case affine => rw [crcF, crcRaw_addBytes alg h, crcFinish_xor_xor, ← crcF, ← crcF, ← crcF]
  case oneBit => exact crcF_corrupt_ne hpoly hj (one_shiftLeft_ne_zero hk)
  case zeros =>
    have hraw : crcRaw crcAlg (List.replicate n 0) = 0 := foldl_crcByte_zeros crcAlg n
    have hfinish : crcFinish crcAlg 0 = 0xFFFF := by decide
    exact (congrArg (crcFinish crcAlg) hraw).trans hfinish

/-- Settles O59: the comparison that held before holds no more, since exactly one of its two sides has changed. -/
theorem crcvfyDetectsEveryBitChange : Obligations.CrcvfyDetectsEveryBitChange := by
  intro len s t htwo hlen hexec hok j k hj hk
  have hresult (s : State) : (resultOf (.crcvfy len) s).status =
      { doneStatus with crcok := maskedChecksum len s == trailingChecksum s len.toNat } := by
    rw [resultOf, if_pos ⟨htwo, hlen⟩]
  cases (exec_eq_put _ s).symm.trans hexec
  have hverified : maskedChecksum len s = trailingChecksum s len.toNat := by
    simpa [CommandResult.put, hresult] using hok
  have hdiffer := maskedChecksum_flipIn_ne htwo hverified hj hk
  refine ⟨_, exec_eq_put (.crcvfy len) (flipIn j k s), ?_, ?_⟩
  · simpa [CommandResult.put, hresult] using hdiffer
  · simp [CommandResult.put, hresult, doneStatus, Status.zero]

end Sys2Proof.Proofs
end

section
/-! SUPPORT. The syndromes are linear, and vanish on no nonzero remainder: a polynomial with as many roots as coefficients
is zero (spec/42_rs_decode.md R122). -/

namespace Sys2Proof.Proofs

open Sys2Proof.Machine Sys2Proof.Safety

/-- The sum of two triples of syndromes. -/
def addSyndromes (S T : Syndromes) : Syndromes :=
  { s1 := S.s1 ^^^ T.s1, s2 := S.s2 ^^^ T.s2, s3 := S.s3 ^^^ T.s3 }

/-- A polynomial that divides to zero by one of its roots is zero. -/
theorem eq_zeros_of_deflate {fp : BitVec 9} {r : Byte} {p : List Byte} (hroot : evalPoly fp p r = 0#8)
    (h : ∀ c ∈ deflate fp r p, c = 0#8) : ∀ c ∈ p, c = 0#8 := by
  fun_induction deflate with
  | case1 => exact h
  | case2 c =>
    simpa [evalPoly] using hroot
  | case3 b c cs ih =>
    have hquot : evalPoly fp (c :: cs) r = 0#8 := h _ List.mem_cons_self
    rw [evalPoly_cons, hquot, gfMul_zero_right, BitVec.xor_zero] at hroot
    have htail := ih hquot fun d hd => h d (List.mem_cons_of_mem _ hd)
    exact List.forall_mem_cons.mpr ⟨hroot, htail⟩

/-- Words of equal length whose sum is zero are equal. -/
theorem eq_of_addBytes_eq_zeros {p q : List Byte} (hlen : p.length = q.length) (h : ∀ c ∈ addBytes p q, c = 0#8) :
    p = q := by
  induction p generalizing q with
  | nil => exact (List.length_eq_zero_iff.mp hlen.symm).symm
  | cons b p ih =>
    cases q with
    | nil => cases hlen
    | cons c q =>
      rw [addBytes_cons, List.forall_mem_cons] at h
      rw [BitVec.xor_eq_zero_iff.mp h.1, ih (Nat.succ.inj hlen) h.2]

theorem addBytes_reverse {p q : List Byte} (hlen : p.length = q.length) :
    (addBytes p q).reverse = addBytes p.reverse q.reverse :=
  List.reverse_zipWith hlen

section Laws

variable {fp : BitVec 9} (hfp : fp ∈ Config.fieldPolys)
include hfp

/-- A polynomial with as many different roots as coefficients is zero. -/
theorem eq_zeros_of_roots {p rs : List Byte} (hlen : p.length = rs.length) (hnodup : rs.Nodup)
    (hroot : ∀ r ∈ rs, evalPoly fp p r = 0#8) : ∀ c ∈ p, c = 0#8 := by
  induction rs generalizing p with
  | nil =>
    rw [List.length_eq_zero_iff.mp hlen]
    exact fun c hc => absurd hc List.not_mem_nil
  | cons r rs ih =>
    obtain ⟨hr, hrs⟩ := List.nodup_cons.mp hnodup
    have hr0 := hroot r List.mem_cons_self
    refine eq_zeros_of_deflate hr0 (ih (by rw [deflate_length, hlen]; rfl) hrs fun s hs => ?_)
    have hfactor := evalPoly_xor_evalPoly hfp p s r
    rw [hr0, hroot s (List.mem_cons_of_mem r hs)] at hfactor
    refine (gfMul_eq_zero hfp hfactor.symm).resolve_left fun h => hr ?_
    rwa [← BitVec.xor_eq_zero_iff.mp h]

theorem horner_addBytes (j : Nat) {c e : List Byte} (h : c.length = e.length) :
    horner fp j (addBytes c e) = horner fp j c ^^^ horner fp j e := by
  rw [horner_eq_evalPoly, horner_eq_evalPoly, horner_eq_evalPoly, addBytes_reverse h, evalPoly_addBytes hfp (by simpa using h)]

/-- The syndromes of a sum are the sums of the syndromes (R122). -/
theorem rsSyndromes_addBytes {c e : List Byte} (h : c.length = e.length) :
    rsSyndromes fp (addBytes c e) = addSyndromes (rsSyndromes fp c) (rsSyndromes fp e) := by
  simp only [rsSyndromes, addSyndromes, horner_addBytes hfp _ h]

/-- A remainder that vanishes at `α`, `α²` and `α³` is zero (R122). -/
theorem eq_zeros_of_horner {p : List Byte} (hlen : p.length = 3)
    (h : ∀ j, j = 1 ∨ j = 2 ∨ j = 3 → horner fp j p = 0#8) : ∀ c ∈ p, c = 0#8 := by
  obtain ⟨hone, htwo, hthree⟩ := gfExp_one_two_three hfp
  have hroots : [gfExp fp 1, gfExp fp 2, gfExp fp 3].Nodup := by
    rw [hone, htwo, hthree]
    decide
  have hzero := eq_zeros_of_roots hfp (p := p.reverse) (by rw [List.length_reverse, hlen]; rfl) hroots fun r hr => by
    simp only [List.mem_cons, List.not_mem_nil, or_false] at hr
    rcases hr with rfl | rfl | rfl
    · rw [← horner_eq_evalPoly, h 1 (by decide)]
    · rw [← horner_eq_evalPoly, h 2 (by decide)]
    · rw [← horner_eq_evalPoly, h 3 (by decide)]
  exact fun c hc => hzero c (List.mem_reverse.mpr hc)

theorem horner_append (j : Nat) (c p : List Byte) :
    horner fp j (c ++ p) = (gfMul fp (gfExp fp j))^[p.length] (horner fp j c) ^^^ horner fp j p := by
  rw [horner, List.foldl_append, foldl_horner hfp, ← horner]

/-- Two words with the same data and all syndromes equal have the same parity: the syndromes see every change of the three
parity bytes (R122). -/
theorem append_eq_of_rsSyndromes_eq {d p q : List Byte} (hp : p.length = 3) (hq : q.length = 3)
    (h : rsSyndromes fp (d ++ p) = rsSyndromes fp (d ++ q)) : p = q := by
  obtain ⟨h1, h2, h3⟩ := Syndromes.mk.inj h
  have hparity (j : Nat) (hj : horner fp j (d ++ p) = horner fp j (d ++ q)) : horner fp j (addBytes p q) = 0#8 := by
    rw [horner_append hfp, horner_append hfp, hp, hq, BitVec.xor_right_inj] at hj
    rw [horner_addBytes hfp j (hp.trans hq.symm), hj]
    exact BitVec.xor_self
  refine eq_of_addBytes_eq_zeros (hp.trans hq.symm) (eq_zeros_of_horner hfp ?_ ?_)
  · rw [addBytes_length (hp.trans hq.symm), hp]
  · rintro j (rfl | rfl | rfl)
    · exact hparity 1 h1
    · exact hparity 2 h2
    · exact hparity 3 h3

/-- `j` factors `α^n` are the one factor `α^(j·n)` (R101). -/
theorem iterate_gfMul_gfExp {n : Nat} (hn : n ≤ 255) (j : Nat) (e : Byte) :
    (gfMul fp (gfExp fp n))^[j] e = gfMul fp e (gfExp fp ((j * n) % 255)) := by
  have hpow : gfMul fp (gfExp fp n) = (xtime fp)^[n] := funext (gfMul_gfExp hfp hn)
  rw [hpow, ← Function.iterate_mul, gfMul_comm, gfMul_gfExp_mod hfp, Nat.mul_comm]

end Laws

end Sys2Proof.Proofs
end

section
/-! The statements about the syndromes (spec/42_rs_decode.md R122). -/

namespace Sys2Proof.Proofs

open Sys2Proof.Machine Sys2Proof.Safety

/-- Settles O46: Horner's method is linear, and a single error at index `p` counts as the powers of `α^(11-p)`. -/
theorem syndromesAreLinearAndSeeEverySingleError : Obligations.SyndromesAreLinearAndSeeEverySingleError := by
  intro fp hfp
  refine ⟨fun c e hc he => rsSyndromes_addBytes hfp (hc.trans he.symm), fun d p e hd hp he => ?_⟩
  have hpow (j : Nat) := iterate_gfMul_gfExp hfp (show 11 - p ≤ 255 by omega) j e
  have hne (j : Nat) : gfMul fp e (gfExp fp ((j * (11 - p)) % 255)) ≠ 0 :=
    gfMul_ne_zero hfp he (gfExp_ne_zero hfp (by omega))
  rw [rsSyndromes_corrupt_rsEncode hfp hd hp e]
  exact ⟨hpow 1, hpow 2, hpow 3, (hpow 1).trans_ne (hne 1), (hpow 2).trans_ne (hne 2), (hpow 3).trans_ne (hne 3)⟩

/-- Settles O47: the codeword of the first nine bytes has the same syndromes, and they leave no room for other parity
bytes. -/
theorem syndromesAreZeroExactlyOnCodewords : Obligations.SyndromesAreZeroExactlyOnCodewords := by
  intro fp hfp c hc
  constructor
  · intro hzero
    obtain ⟨d, p, rfl, hd, hp⟩ : ∃ d p, c = d ++ p ∧ d.length = 9 ∧ p.length = 3 :=
      ⟨c.take 9, c.drop 9, (List.take_append_drop 9 c).symm, by simp [hc], by simp [hc]⟩
    rw [← hd, List.take_left]
    have hcodeword := rsSyndromes_rsEncode hfp d
    exact congrArg (d ++ ·) (append_eq_of_rsSyndromes_eq hfp hp rfl (hzero.trans hcodeword.symm))
  · intro hcodeword
    rw [hcodeword]
    exact rsSyndromes_rsEncode hfp _

end Sys2Proof.Proofs
end

section
/-! SUPPORT. The positions the Chien search finds for each shape of the locator: position `p` is found exactly when `α^p`
solves the locator's equation written in the inverse of its variable (spec/42_rs_decode.md R132, R141). -/

namespace Sys2Proof.Proofs

open Sys2Proof.Machine Sys2Proof.Safety

/-- Zero in a sum, in the spelling of the polynomials' literals. -/
theorem zero_sum (x : Byte) : 0 ^^^ x = x ∧ x ^^^ 0 = x := ⟨BitVec.zero_xor, BitVec.xor_zero⟩

/-- Zero in a product, in the spelling of the polynomials' literals. -/
theorem zero_product (fp : BitVec 9) (x : Byte) : gfMul fp 0 x = 0 ∧ gfMul fp x 0 = 0 :=
  ⟨gfMul_zero_left fp x, gfMul_zero_right fp x⟩

/-- The search is determined by the set of positions it finds, since it lists them in falling order. -/
theorem chienSearch_eq_of_mem_iff {fp : BitVec 9} {lam : List Byte} {ps : List Nat}
    (hfalling : ps.Pairwise fun p q => q < p) (hmem : ∀ p, p ∈ chienSearch fp lam ↔ p ∈ ps) :
    chienSearch fp lam = ps := by
  have hnodup {l : List Nat} (h : l.Pairwise fun p q => q < p) : l.Nodup := h.imp fun hlt => hlt.ne'
  have hsearch := chienSearch_pairwise fp lam
  have hperm := (List.perm_ext_iff_of_nodup (hnodup hsearch) (hnodup hfalling)).mpr hmem
  exact hperm.eq_of_pairwise (fun p q _ _ hpq hqp => absurd hpq (Nat.lt_asymm hqp)) hsearch hfalling

section Roots

variable {fp : BitVec 9} (hfp : fp ∈ Config.fieldPolys)
include hfp

theorem gfMul_gfExp_inverse {i : Nat} (hi : i ≤ 254) : gfMul fp (gfExp fp i) (gfExp fp (255 - i)) = 1 :=
  (gfMul_gfExp_eq_one_iff hfp hi hi).mpr rfl

/-- One factor `x` against its inverse `r`. -/
theorem gfMul_xor_of_inverse {x r : Byte} (hxr : gfMul fp x r = 1) (c y : Byte) :
    gfMul fp x (c ^^^ gfMul fp r y) = gfMul fp x c ^^^ y := by
  rw [gfMul_xor_right hfp, ← gfMul_assoc hfp, hxr, gfMul_one_left hfp]

/-- A locator of degree three at `r`, times the cube of the inverse `x` of `r`, is the reversed polynomial at `x`. -/
theorem cube_gfMul_evalPoly_locator {x r : Byte} (hxr : gfMul fp x r = 1) (l1 l2 l3 : Byte) :
    gfMul fp x (gfMul fp x (gfMul fp x (evalPoly fp [1, l1, l2, l3, 0, 0, 0] r))) =
      l3 ^^^ gfMul fp x (l2 ^^^ gfMul fp x (l1 ^^^ x)) := by
  have hvalue : evalPoly fp [1, l1, l2, l3, 0, 0, 0] r = 1 ^^^ gfMul fp r (l1 ^^^ gfMul fp r (l2 ^^^ gfMul fp r l3)) := by
    simp [evalPoly]
  rw [hvalue, gfMul_xor_of_inverse hfp hxr, gfMul_one_right hfp, ← BitVec.xor_assoc, gfMul_xor_of_inverse hfp hxr,
    ← BitVec.xor_assoc, gfMul_xor_of_inverse hfp hxr, BitVec.xor_comm x l1, BitVec.xor_comm _ l2, BitVec.xor_comm _ l3]

/-- The positions found for a locator of degree at most three (R132). -/
theorem mem_chienSearch_cubic (l1 l2 l3 : Byte) (p : Nat) : p ∈ chienSearch fp [1, l1, l2, l3, 0, 0, 0] ↔
    p ≤ 254 ∧ gfMul fp (gfExp fp p) (l2 ^^^ gfMul fp (gfExp fp p) (l1 ^^^ gfExp fp p)) = l3 := by
  rw [mem_chienSearch_iff hfp rfl]
  refine and_congr_right fun hp => ?_
  have hx : gfExp fp p ≠ 0#8 := gfExp_ne_zero hfp (by omega)
  rw [eq_comm (b := l3), ← (BitVec.xor_eq_zero_iff (x := l3)),
    ← cube_gfMul_evalPoly_locator hfp (gfMul_gfExp_inverse hfp hp) l1 l2 l3]
  have hcancel {y : Byte} (h : gfMul fp (gfExp fp p) y = 0#8) : y = 0#8 := (gfMul_eq_zero hfp h).resolve_left hx
  constructor
  · intro hroot
    simp only [hroot]
    simp
  · exact fun hcube => hcancel (hcancel (hcancel hcube))

/-- The positions found for a locator of degree at most two: `x` and `Λ1 + x` have the product `Λ2` (R141). -/
theorem mem_chienSearch_quadratic (l1 l2 : Byte) (p : Nat) : p ∈ chienSearch fp [1, l1, l2, 0, 0, 0, 0] ↔
    p ≤ 254 ∧ gfMul fp (gfExp fp p) (l1 ^^^ gfExp fp p) = l2 := by
  rw [mem_chienSearch_cubic hfp]
  refine and_congr_right fun hp => ?_
  have hx : gfExp fp p ≠ 0#8 := gfExp_ne_zero hfp (by omega)
  constructor
  · intro hzero
    exact (BitVec.xor_eq_zero_iff.mp ((gfMul_eq_zero hfp hzero).resolve_left hx)).symm
  · intro hproduct
    rw [hproduct, BitVec.xor_self, gfMul_zero_right]
    rfl

/-- A constant locator has no root (class A2). -/
theorem chienSearch_constant : chienSearch fp [1, 0, 0, 0, 0, 0, 0] = [] := by
  refine chienSearch_eq_of_mem_iff List.Pairwise.nil fun p => ?_
  rw [mem_chienSearch_quadratic hfp]
  simp only [List.not_mem_nil, iff_false]
  rintro ⟨hp, hzero⟩
  have hx : gfExp fp p ≠ 0#8 := gfExp_ne_zero hfp (by omega)
  exact gfMul_ne_zero hfp hx (by simpa using hx) hzero

/-- Every nonzero byte is the square of a power of `α`: an odd logarithm becomes even by adding 255. -/
theorem exists_gfExp_square {b : Byte} (hb : b ≠ 0#8) : ∃ i ≤ 254, gfMul fp (gfExp fp i) (gfExp fp i) = b := by
  obtain ⟨n, rfl⟩ := exists_gfExp_of_ne_zero hfp hb
  obtain ⟨i, hi, hdouble⟩ : ∃ i ≤ 254, (i + i) % 255 = n % 255 := by
    rcases Nat.mod_two_eq_zero_or_one (n % 255) with heven | hodd
    · exact ⟨n % 255 / 2, by omega, by omega⟩
    · exact ⟨(n % 255 + 255) / 2, by omega, by omega⟩
  refine ⟨i, hi, ?_⟩
  have hsquare := gfMul_gfExp_gfExp hfp i i
  rwa [gfExp_mod hfp (by omega), hdouble] at hsquare

theorem gfExp_inj {i j : Nat} (hi : i ≤ 254) (hj : j ≤ 254) (h : gfExp fp i = gfExp fp j) : i = j := by
  rw [← gfExp_mod hfp (by omega), ← gfExp_mod hfp (show j ≤ 255 by omega), gfExp_mod_inj hfp] at h
  omega

/-- A locator `1 + Λ2·z²` has one root, since squaring is a bijection (classes A3 and B1). -/
theorem chienSearch_square {l2 : Byte} (h2 : l2 ≠ 0#8) : ∃ i, chienSearch fp [1, 0, l2, 0, 0, 0, 0] = [i] := by
  obtain ⟨i, hi, hsquare⟩ := exists_gfExp_square hfp h2
  refine ⟨i, chienSearch_eq_of_mem_iff (List.pairwise_singleton _ i) fun p => ?_⟩
  rw [mem_chienSearch_quadratic hfp, (zero_sum _).1, List.mem_singleton]
  constructor
  · rintro ⟨hp, heq⟩
    exact gfExp_inj hfp hp hi (gfMul_self_inj hfp (heq.trans hsquare.symm))
  · rintro rfl
    exact ⟨hi, hsquare⟩

/-- A locator `1 + Λ3·z³` has its roots at the cube roots of `Λ3`: three or none (class C). -/
theorem chienSearch_cube_length {l3 : Byte} {l : Nat} (hlog : gfLog fp l3 = some l) :
    (chienSearch fp [1, 0, 0, l3, 0, 0, 0]).length = if l % 3 = 0 then 3 else 0 := by
  have hmem (p : Nat) : p ∈ chienSearch fp [1, 0, 0, l3, 0, 0, 0] ↔
      p ≤ 254 ∧ gfMul fp (gfExp fp p) (gfMul fp (gfExp fp p) (gfExp fp p)) = l3 := by
    rw [mem_chienSearch_cubic hfp, (zero_sum _).1, (zero_sum _).1]
  have hl3 : l3 ≠ 0#8 := by
    rintro rfl
    cases hlog
  split
  next hthree =>
    obtain ⟨n, rfl⟩ := exists_gfExp_of_ne_zero hfp hl3
    rw [gfLog_gfExp_mod hfp, Option.some.injEq] at hlog
    obtain ⟨m, hm, hcube⟩ : ∃ m < 85, n % 255 = 3 * m % 255 := ⟨l / 3, by omega, by omega⟩
    have hpositions : chienSearch fp [1, 0, 0, gfExp fp (n % 255), 0, 0, 0] = [m + 170, m + 85, m] := by
      refine chienSearch_eq_of_mem_iff (by simp) fun p => ?_
      rw [hmem, hcube, gfMul_cube_eq_iff hfp hm]
      simp only [List.mem_cons, List.not_mem_nil, or_false]
      constructor
      · rintro ⟨hp, hroot⟩
        rw [← gfExp_mod hfp (show p ≤ 255 by omega), gfExp_mod_inj hfp, gfExp_mod_inj hfp, gfExp_mod_inj hfp] at hroot
        omega
      · intro hp
        rw [← gfExp_mod hfp (show p ≤ 255 by omega), gfExp_mod_inj hfp, gfExp_mod_inj hfp, gfExp_mod_inj hfp]
        omega
    rw [hpositions]
    rfl
  next hthree =>
    refine List.length_eq_zero_iff.mpr (chienSearch_eq_of_mem_iff List.Pairwise.nil fun p => ?_)
    rw [hmem]
    simp only [List.not_mem_nil, iff_false]
    rintro ⟨_, hcube⟩
    obtain ⟨l', hlog', hthree'⟩ := (exists_cube_iff hfp hl3).mp ⟨_, hcube⟩
    rw [hlog, Option.some.injEq] at hlog'
    exact hthree (hlog' ▸ hthree')

/-- `z` solves the equation with the roots `x` and `y` exactly when it is one of them. -/
theorem gfMul_xor_eq_gfMul_iff (x y z : Byte) : gfMul fp z (x ^^^ y ^^^ z) = gfMul fp x y ↔ z = x ∨ z = y := by
  have hfactor : gfMul fp z (x ^^^ y ^^^ z) ^^^ gfMul fp x y = gfMul fp (z ^^^ x) (z ^^^ y) := by
    simp only [gfMul_xor_right hfp, gfMul_xor_left hfp, gfMul_comm fp z x]
    ac_rfl
  rw [← BitVec.xor_eq_zero_iff, hfactor]
  constructor
  · intro hzero
    exact (gfMul_eq_zero hfp hzero).imp BitVec.xor_eq_zero_iff.mp BitVec.xor_eq_zero_iff.mp
  · rintro (rfl | rfl)
    · rw [BitVec.xor_self]
      exact gfMul_zero_left fp _
    · rw [BitVec.xor_self]
      exact gfMul_zero_right fp _

/-- A locator with the inverse roots `α^i` and `α^j` is found at those two positions (classes A4 and B2). -/
theorem chienSearch_two_roots {i j : Nat} (hij : i < j) (hj : j ≤ 254) :
    chienSearch fp [1, gfExp fp i ^^^ gfExp fp j, gfMul fp (gfExp fp i) (gfExp fp j), 0, 0, 0, 0] = [j, i] := by
  refine chienSearch_eq_of_mem_iff (List.pairwise_pair.mpr hij) fun p => ?_
  rw [mem_chienSearch_quadratic hfp, gfMul_xor_eq_gfMul_iff hfp, List.mem_cons, List.mem_singleton]
  constructor
  · rintro ⟨hp, h | h⟩
    · exact .inr (gfExp_inj hfp hp (by omega) h)
    · exact .inl (gfExp_inj hfp hp hj h)
  · rintro (rfl | rfl)
    · exact ⟨hj, .inr rfl⟩
    · exact ⟨by omega, .inl rfl⟩

/-- A locator of degree two whose linear coefficient is not zero has no root, or two different ones (classes A4 and B2). -/
theorem exists_two_roots_of_mem {l1 l2 : Byte} (h1 : l1 ≠ 0#8) (h2 : l2 ≠ 0#8) {p : Nat}
    (hp : p ∈ chienSearch fp [1, l1, l2, 0, 0, 0, 0]) :
    ∃ i j, i < j ∧ j ≤ 254 ∧ gfExp fp i ^^^ gfExp fp j = l1 ∧ gfMul fp (gfExp fp i) (gfExp fp j) = l2 := by
  obtain ⟨hp254, hroot⟩ := (mem_chienSearch_quadratic hfp l1 l2 p).mp hp
  have hother : l1 ^^^ gfExp fp p ≠ 0#8 := by
    intro hzero
    rw [hzero, gfMul_zero_right] at hroot
    exact h2 hroot.symm
  obtain ⟨q, hq254, -, hq⟩ := exists_gfLog_of_ne_zero hfp hother
  rw [← hq] at hroot
  have hsum : gfExp fp p ^^^ gfExp fp q = l1 := by
    rw [hq, BitVec.xor_comm l1, ← BitVec.xor_assoc, BitVec.xor_self, BitVec.zero_xor]
  rcases Nat.lt_trichotomy p q with hlt | rfl | hgt
  · exact ⟨p, q, hlt, hq254, hsum, hroot⟩
  · rw [BitVec.xor_self] at hsum
    exact absurd hsum.symm h1
  · exact ⟨q, p, hgt, hp254, by rw [BitVec.xor_comm, hsum], by rw [gfMul_comm, hroot]⟩

end Roots

end Sys2Proof.Proofs
end

section
/-! SUPPORT. The decoder from the positions on: the no-op, the uncorrectable word and the correction, each with the condition
that selects it (spec/42_rs_decode.md R134 to R139). -/

namespace Sys2Proof.Proofs

open Sys2Proof.Machine Sys2Proof.Safety

/-- The result that reports no error and changes nothing (R134). -/
def unlocated (c : List Byte) : DecodeResult :=
  { codeword := some c, errorsFound := 0, uncorrectable := false, syndromesZero := false }

/-- The uncorrectable result with `n` errors found (R135, R137). -/
def uncorrected (c : List Byte) (n : Nat) : DecodeResult :=
  { codeword := some c, errorsFound := n, uncorrectable := true, syndromesZero := false }

/-- The result with `n` errors corrected (R138). -/
def corrected (c : List Byte) (n : Nat) : DecodeResult :=
  { codeword := some c, errorsFound := n, uncorrectable := false, syndromesZero := false }

/-- What the decoder has in hand after its stages 1 to 5 on a word whose syndromes are not all zero: locator, evaluator and
positions (R126 to R132). -/
structure Located (fp : BitVec 9) (c lam omg : List Byte) (pos : List Nat) : Prop where
  nonzero : (rsSyndromes fp c).allZero = false
  lam_eq : (locator fp (rsSyndromes fp c).poly).lam = lam
  omg_eq : evaluatorOf (polyMul fp lam (rsSyndromes fp c).poly) = omg
  pos_eq : chienSearch fp lam = pos

/-- Why a word with `pos` not empty is uncorrectable: too many positions, one out of range, or no error value (R135,
R137). -/
def NotCorrectable (fp : BitVec 9) (lam omg : List Byte) (pos : List Nat) : Prop :=
  3 ≤ pos.length ∨ (∃ p ∈ pos, 12 ≤ p) ∨ errorValues fp lam omg pos = none

section Endings

variable {fp : BitVec 9} {c lam omg : List Byte} {pos : List Nat} (h : Located fp c lam omg pos)
include h

theorem Located.rsDecode_eq : rsDecode fp 12 c =
    if pos.length = 0 then unlocated c
    else if 3 ≤ pos.length then uncorrected c pos.length
    else if pos.any (fun p => 12 ≤ p) then uncorrected c pos.length
    else (errorValues fp lam omg pos).elim (uncorrected c pos.length) fun val =>
      corrected (applyCorrections c pos val) pos.length := by
  obtain ⟨hnonzero, rfl, rfl, rfl⟩ := h
  simp only [rsDecode, hnonzero, Bool.false_eq_true, if_false, ne_eq, not_true_eq_false]
  cases errorValues fp _ _ _ <;> rfl

/-- No position: the word is returned as it came (R134). -/
theorem Located.rsDecode_of_nil (hnil : pos = []) : rsDecode fp 12 c = unlocated c := by
  rw [h.rsDecode_eq, hnil]
  rfl

theorem Located.rsDecode_of_notCorrectable (hne : pos ≠ []) (hbad : NotCorrectable fp lam omg pos) :
    rsDecode fp 12 c = uncorrected c pos.length := by
  rw [h.rsDecode_eq, if_neg (by rwa [List.length_eq_zero_iff])]
  rcases hbad with hmany | ⟨p, hp, hrange⟩ | hnone
  · rw [if_pos hmany]
  · rw [if_pos (c := pos.any _ = true) (List.any_eq_true.mpr ⟨p, hp, by simpa using hrange⟩), ite_self]
  · rw [hnone]
    simp

theorem Located.rsDecode_of_errorValues {val : List Byte} (hne : pos ≠ []) (hfew : pos.length < 3)
    (hrange : ∀ p ∈ pos, p < 12) (hval : errorValues fp lam omg pos = some val) :
    rsDecode fp 12 c = corrected (applyCorrections c pos val) pos.length := by
  have hany : ¬ pos.any (fun p => 12 ≤ p) = true := by
    rw [List.any_eq_true]
    rintro ⟨p, hp, hbad⟩
    have hlt := hrange p hp
    simp only [decide_eq_true_eq] at hbad
    omega
  rw [h.rsDecode_eq, if_neg (by rwa [List.length_eq_zero_iff]), if_neg (by omega), if_neg hany, hval]
  rfl

/-- The three endings of a word with a nonzero syndrome (R174). -/
theorem Located.rsDecode_cases : rsDecode fp 12 c = unlocated c ∨ (∃ n, rsDecode fp 12 c = uncorrected c n) ∨
    ∃ c' n, (n = 1 ∨ n = 2) ∧ rsDecode fp 12 c = corrected c' n := by
  by_cases hne : pos = []
  · exact .inl (h.rsDecode_of_nil hne)
  by_cases hbad : NotCorrectable fp lam omg pos
  · exact .inr (.inl ⟨_, h.rsDecode_of_notCorrectable hne hbad⟩)
  · simp only [NotCorrectable, not_or, not_exists, not_and, Nat.not_le] at hbad
    obtain ⟨hfew, hrange, hval⟩ := hbad
    obtain ⟨val, hval⟩ := Option.ne_none_iff_exists'.mp hval
    have hlen : pos.length ≠ 0 := by rwa [Ne, List.length_eq_zero_iff]
    exact .inr (.inr ⟨_, _, by omega, h.rsDecode_of_errorValues hne hfew hrange hval⟩)

end Endings

theorem allZero_eq_false_of_ne {S : Syndromes} (h : S.s1 ≠ 0 ∨ S.s2 ≠ 0 ∨ S.s3 ≠ 0) : S.allZero = false := by
  rw [allZero_eq_decide, decide_eq_false_iff_not]
  rintro ⟨h1, h2, h3⟩
  exact h.elim (· h1) (·.elim (· h2) (· h3))

end Sys2Proof.Proofs
end

section
/-! SUPPORT. The error values for a locator of degree at most two, and the decoder at such a locator: no root, a double root,
or two roots (spec/42_rs_decode.md R136, R137, R141). -/

namespace Sys2Proof.Proofs

open Sys2Proof.Machine Sys2Proof.Safety

theorem errorValues_pair {fp : BitVec 9} {lam omg : List Byte} {p q : Nat} {u v : Byte}
    (hp : errorValue fp lam omg p = some u) (hq : errorValue fp lam omg q = some v) :
    errorValues fp lam omg [p, q] = some [u, v] := by
  simp only [errorValues, hp, hq]

/-- Changes at two different bytes can be made in either order. -/
theorem corrupt_comm (c : List Byte) {p q : Nat} (h : p ≠ q) (u v : Byte) :
    corrupt (corrupt c p u) q v = corrupt (corrupt c q v) p u := by
  have hother {p q : Nat} (h : p ≠ q) (u : Byte) : coeff (corrupt c p u) q = coeff c q := by
    simp [coeff, corrupt, h]
  calc (corrupt c p u).set q (coeff (corrupt c p u) q ^^^ v)
      = (c.set p (coeff c p ^^^ u)).set q (coeff c q ^^^ v) := by rw [hother h]; rfl
    _ = (c.set q (coeff c q ^^^ v)).set p (coeff c p ^^^ u) := List.set_comm _ _ h
    _ = (corrupt c q v).set p (coeff (corrupt c q v) p ^^^ u) := by rw [hother h.symm]; rfl

section Values

variable {fp : BitVec 9} (hfp : fp ∈ Config.fieldPolys)
include hfp

/-- The evaluator at the inverse `r` of `α^i`, for an evaluator of degree at most one (R136). -/
theorem evaluatorAt_linear {i : Nat} (hi : i ≤ 254) (w0 w1 : Byte) :
    evaluatorAt fp [w0, w1, 0] ((255 - i) % 255) = w0 ^^^ gfMul fp w1 (gfExp fp (255 - i)) := by
  have hzero : gfExp fp 0 = 1#8 := gfExp_zero hfp
  have hinverse : gfExp fp ((255 - i) % 255) = gfExp fp (255 - i) := gfExp_mod hfp (by omega)
  simp [evaluatorAt, coeff, xorSum_cons, hzero, hinverse, one_neutral hfp]

/-- The derivative of a locator of degree two is its linear coefficient (R136). -/
theorem derivativeAt_quadratic (l1 l2 : Byte) (e : Nat) : derivativeAt fp [1, l1, l2, 0, 0, 0, 0] e = l1 := by
  have hzero : gfExp fp 0 = 1#8 := gfExp_zero hfp
  simp [derivativeAt, coeff, xorSum_cons, hzero, one_neutral hfp]

theorem errorValue_quadratic {i : Nat} (hi : i ≤ 254) (l1 l2 w0 w1 : Byte) :
    errorValue fp [1, l1, l2, 0, 0, 0, 0] [w0, w1, 0] i = gfDiv fp (w0 ^^^ gfMul fp w1 (gfExp fp (255 - i))) l1 := by
  rw [errorValue, evaluatorAt_linear hfp hi, derivativeAt_quadratic hfp]

/-- Off zero every quotient exists. -/
theorem exists_gfDiv (a : Byte) {b : Byte} (hb : b ≠ 0#8) : ∃ v, gfDiv fp a b = some v := by
  obtain ⟨v, hinv, -⟩ := exists_gfInv_of_ne_zero hfp hb
  exact ⟨gfMul fp a v, by rw [gfDiv, hinv, Option.map_some]⟩

/-- A double root: the locator has one position and its derivative is zero (classes A3 and B1, R137). -/
theorem rsDecode_of_double_root {c omg : List Byte} {l2 : Byte} {pos : List Nat} (hl2 : l2 ≠ 0#8)
    (h : Located fp c [1, 0, l2, 0, 0, 0, 0] omg pos) : rsDecode fp 12 c = uncorrected c 1 := by
  obtain ⟨i, hi⟩ := chienSearch_square hfp hl2
  obtain rfl : pos = [i] := h.pos_eq.symm.trans hi
  have hnone : errorValue fp [1, 0, l2, 0, 0, 0, 0] omg i = none := by
    rw [errorValue, derivativeAt_quadratic hfp]
    rfl
  exact h.rsDecode_of_notCorrectable (List.cons_ne_nil _ _) (.inr (.inr (by simp only [errorValues, hnone])))

/-- Two roots: both bytes are corrected when the higher position is in range, and the word is uncorrectable when it is not
(classes A4 and B2). -/
theorem rsDecode_of_two_roots {c omg : List Byte} {i j : Nat} {u v : Byte} {pos : List Nat} (hij : i < j) (hj : j ≤ 254)
    (h : Located fp c [1, gfExp fp i ^^^ gfExp fp j, gfMul fp (gfExp fp i) (gfExp fp j), 0, 0, 0, 0] omg pos)
    (hu : errorValue fp [1, gfExp fp i ^^^ gfExp fp j, gfMul fp (gfExp fp i) (gfExp fp j), 0, 0, 0, 0] omg i = some u)
    (hv : errorValue fp [1, gfExp fp i ^^^ gfExp fp j, gfMul fp (gfExp fp i) (gfExp fp j), 0, 0, 0, 0] omg j = some v) :
    rsDecode fp 12 c =
      if j ≤ 11 then corrected (corrupt (corrupt c (11 - i) u) (11 - j) v) 2 else uncorrected c 2 := by
  obtain rfl : pos = [j, i] := h.pos_eq.symm.trans (chienSearch_two_roots hfp hij hj)
  split
  next hin =>
    have hrange : ∀ p ∈ [j, i], p < 12 := by
      simp only [List.mem_cons, List.not_mem_nil, or_false]
      omega
    rw [h.rsDecode_of_errorValues (List.cons_ne_nil _ _) (Nat.lt_succ_self 2) hrange (errorValues_pair hv hu),
      corrupt_comm c (show 11 - i ≠ 11 - j by omega)]
    rfl
  next hout =>
    exact h.rsDecode_of_notCorrectable (List.cons_ne_nil _ _) (.inr (.inl ⟨j, List.mem_cons_self, by omega⟩))

/-- The two outcomes of a locator `1 + Λ1·z + Λ2·z²` with both coefficients nonzero (classes A4 and B2). -/
theorem rsDecode_of_quadratic {c omg : List Byte} {l1 l2 : Byte} {pos : List Nat} (h1 : l1 ≠ 0#8) (h2 : l2 ≠ 0#8)
    (h : Located fp c [1, l1, l2, 0, 0, 0, 0] omg pos) {value : Nat → Option Byte}
    (hvalue : ∀ i ≤ 254, errorValue fp [1, l1, l2, 0, 0, 0, 0] omg i = value i ∧ ∃ v, value i = some v) :
    ((¬ ∃ i j, i ≤ 254 ∧ j ≤ 254 ∧ gfExp fp i ^^^ gfExp fp j = l1 ∧ gfMul fp (gfExp fp i) (gfExp fp j) = l2) ∧
      rsDecode fp 12 c = unlocated c) ∨
    ∃ i j u v, i < j ∧ j ≤ 254 ∧ gfExp fp i ^^^ gfExp fp j = l1 ∧ gfMul fp (gfExp fp i) (gfExp fp j) = l2 ∧
      value i = some u ∧ value j = some v ∧ rsDecode fp 12 c =
        if j ≤ 11 then corrected (corrupt (corrupt c (11 - i) u) (11 - j) v) 2 else uncorrected c 2 := by
  cases hpos : pos with
  | nil =>
    refine .inl ⟨?_, h.rsDecode_of_nil hpos⟩
    rintro ⟨i, j, hi, -, rfl, rfl⟩
    have hmem := (mem_chienSearch_quadratic hfp _ _ i).mpr
      ⟨hi, (gfMul_xor_eq_gfMul_iff hfp (gfExp fp i) (gfExp fp j) _).mpr (.inl rfl)⟩
    rw [h.pos_eq, hpos] at hmem
    cases hmem
  | cons p ps =>
    have hmem : p ∈ chienSearch fp [1, l1, l2, 0, 0, 0, 0] := by
      rw [h.pos_eq, hpos]
      exact List.mem_cons_self
    obtain ⟨i, j, hij, hj, rfl, rfl⟩ := exists_two_roots_of_mem hfp h1 h2 hmem
    obtain ⟨hei, u, hu⟩ := hvalue i (by omega)
    obtain ⟨hej, v, hv⟩ := hvalue j hj
    exact .inr ⟨i, j, u, v, hij, hj, rfl, rfl, hu, hv,
      rsDecode_of_two_roots hfp hij hj h (hei.trans hu) (hej.trans hv)⟩

end Values

end Sys2Proof.Proofs
end

section
/-! SUPPORT. The classes of words by their syndromes (spec/42_rs_decode.md R128, R131, R141). -/

namespace Sys2Proof.Proofs

open Sys2Proof.Machine Sys2Proof.Safety

section Classes

variable {fp : BitVec 9} (hfp : fp ∈ Config.fieldPolys) {c : List Byte}
include hfp

/-- Equal cross products give equal quotients. -/
theorem gfDiv_congr {a b a' b' : Byte} (hb : b ≠ 0#8) (hb' : b' ≠ 0#8) (h : gfMul fp a b' = gfMul fp a' b) :
    gfDiv fp a b = gfDiv fp a' b' := by
  obtain ⟨v, hv⟩ := exists_gfDiv hfp a' hb'
  rw [hv, gfDiv_eq_some_iff hfp hb]
  rw [gfDiv_eq_some_iff hfp hb'] at hv
  apply gfMul_left_cancel hfp hb'
  rw [gfMul_left_comm hfp, hv, gfMul_comm, ← h, gfMul_comm]

/-- Class A: the coefficients of the locator are those of the recurrence the syndromes satisfy (R128, R131). -/
theorem located_of_s1_ne_zero {l1 l2 : Byte} (h1 : (rsSyndromes fp c).s1 ≠ 0#8)
    (h2 : (rsSyndromes fp c).s2 = gfMul fp (rsSyndromes fp c).s1 l1)
    (h3 : (rsSyndromes fp c).s3 = gfMul fp (rsSyndromes fp c).s2 l1 ^^^ gfMul fp (rsSyndromes fp c).s1 l2) :
    Located fp c [1, l1, l2, 0, 0, 0, 0] [(rsSyndromes fp c).s1, 0, 0] (chienSearch fp [1, l1, l2, 0, 0, 0, 0]) := by
  obtain ⟨m1, m2, hm1, hm2, hlam, -⟩ := locator_of_s1_ne_zero hfp h1
  have hl1 : m1 = l1 := gfMul_left_cancel hfp h1 (hm1.trans h2)
  have hratio : gfMul fp (rsSyndromes fp c).s1 (rsSyndromes fp c).s3 ^^^
      gfMul fp (rsSyndromes fp c).s2 (rsSyndromes fp c).s2 =
      gfMul fp (gfMul fp (rsSyndromes fp c).s1 (rsSyndromes fp c).s1) l2 := by
    rw [h3, gfMul_xor_right hfp, gfMul_left_comm hfp _ _ l1, ← h2, BitVec.xor_comm, ← BitVec.xor_assoc, BitVec.xor_self,
      BitVec.zero_xor, gfMul_assoc hfp]
  have hl2 : m2 = l2 := gfMul_left_cancel hfp (gfMul_ne_zero hfp h1 h1) (hm2.trans hratio)
  subst hl1 hl2
  exact ⟨allZero_eq_false_of_ne (.inl h1), hlam, hlam ▸ evaluator_of_s1_ne_zero hfp h1, rfl⟩

/-- Class B (R128, R131). -/
theorem located_of_s2_ne_zero {l1 : Byte} (h1 : (rsSyndromes fp c).s1 = 0#8) (h2 : (rsSyndromes fp c).s2 ≠ 0#8)
    (h3 : (rsSyndromes fp c).s3 = gfMul fp (rsSyndromes fp c).s2 l1) :
    Located fp c [1, l1, (rsSyndromes fp c).s2, 0, 0, 0, 0] [0, (rsSyndromes fp c).s2, 0]
      (chienSearch fp [1, l1, (rsSyndromes fp c).s2, 0, 0, 0, 0]) := by
  obtain ⟨m1, hm1, hlam, -⟩ := locator_of_s2_ne_zero hfp h1 h2
  have hl1 : m1 = l1 := gfMul_left_cancel hfp h2 (hm1.trans h3)
  subst hl1
  exact ⟨allZero_eq_false_of_ne (.inr (.inl h2)), hlam, hlam ▸ evaluator_of_s2_ne_zero hfp h1 h2, rfl⟩

/-- Class C (R128, R131). -/
theorem located_of_s3_ne_zero (h1 : (rsSyndromes fp c).s1 = 0#8) (h2 : (rsSyndromes fp c).s2 = 0#8)
    (h3 : (rsSyndromes fp c).s3 ≠ 0#8) :
    Located fp c [1, 0, 0, (rsSyndromes fp c).s3, 0, 0, 0] [0, 0, (rsSyndromes fp c).s3]
      (chienSearch fp [1, 0, 0, (rsSyndromes fp c).s3, 0, 0, 0]) := by
  obtain ⟨hlam, -⟩ := locator_of_s3_ne_zero hfp h1 h2 h3
  exact ⟨allZero_eq_false_of_ne (.inr (.inr h3)), hlam, hlam ▸ evaluator_of_s3_ne_zero hfp h1 h2 h3, rfl⟩

end Classes

end Sys2Proof.Proofs
end

section
/-! SUPPORT. The classes with a nonzero first syndrome, by the recurrence `S2 = S1·Λ1`, `S3 = S2·Λ1 + S1·Λ2`; and the
syndromes of one and of two byte errors, which satisfy it (spec/42_rs_decode.md R122, R128, R141, R143). -/

namespace Sys2Proof.Proofs

open Sys2Proof.Machine Sys2Proof.Safety

/-- What an error of value `e` at the position of `x` adds to the syndromes (R122). -/
def errorSyndromes (fp : BitVec 9) (x e : Byte) : Syndromes :=
  { s1 := gfMul fp x e, s2 := gfMul fp x (gfMul fp x e), s3 := gfMul fp x (gfMul fp x (gfMul fp x e)) }

theorem addSyndromes_assoc (S T U : Syndromes) :
    addSyndromes (addSyndromes S T) U = addSyndromes S (addSyndromes T U) := by
  simp only [addSyndromes, BitVec.xor_assoc]

theorem addSyndromes_self (S : Syndromes) : addSyndromes S S = { s1 := 0, s2 := 0, s3 := 0 } := by
  simp only [addSyndromes, BitVec.xor_self]
  rfl

theorem zero_addSyndromes (S : Syndromes) : addSyndromes { s1 := 0, s2 := 0, s3 := 0 } S = S := by
  simp [addSyndromes]

/-- Under one recurrence, the first two syndromes fix the third. -/
theorem eq_of_recurrence {S T : Syndromes} {l1 l2 : Byte} (h1 : T.s1 = S.s1) (h2 : T.s2 = S.s2)
    (hT : T.s3 = gfMul fp T.s2 l1 ^^^ gfMul fp T.s1 l2) (hS : S.s3 = gfMul fp S.s2 l1 ^^^ gfMul fp S.s1 l2) : T = S := by
  have h3 : T.s3 = S.s3 := by rw [hT, hS, h1, h2]
  cases S
  cases T
  simp only at h1 h2 h3
  rw [h1, h2, h3]

/-- The syndromes of one error, from the ratio that names its position (R141, class A1). -/
theorem errorSyndromes_of_ratio {fp : BitVec 9} {x v : Byte} {S : Syndromes} (h1 : gfMul fp x v = S.s1) (h2 : S.s2 = gfMul fp S.s1 x)
    (h3 : S.s3 = gfMul fp S.s2 x) : errorSyndromes fp x v = S := by
  rw [errorSyndromes, h1, gfMul_comm fp x S.s1, ← h2, gfMul_comm fp x S.s2, ← h3]

section Classes

variable {fp : BitVec 9} (hfp : fp ∈ Config.fieldPolys)
include hfp

/-- The two quotients of class A and the recurrence they stand for (R128). -/
theorem exists_recurrence {S : Syndromes} (h1 : S.s1 ≠ 0#8) : ∃ l1 l2, gfDiv fp S.s2 S.s1 = some l1 ∧
    gfDiv fp (gfMul fp S.s1 S.s3 ^^^ gfMul fp S.s2 S.s2) (gfMul fp S.s1 S.s1) = some l2 ∧
    S.s2 = gfMul fp S.s1 l1 ∧ S.s3 = gfMul fp S.s2 l1 ^^^ gfMul fp S.s1 l2 := by
  have h11 := gfMul_ne_zero hfp h1 h1
  obtain ⟨l1, hl1⟩ := exists_gfDiv hfp S.s2 h1
  obtain ⟨l2, hl2⟩ := exists_gfDiv hfp (gfMul fp S.s1 S.s3 ^^^ gfMul fp S.s2 S.s2) h11
  refine ⟨l1, l2, hl1, hl2, ?_⟩
  rw [gfDiv_eq_some_iff hfp h1] at hl1
  rw [gfDiv_eq_some_iff hfp h11] at hl2
  refine ⟨hl1.symm, gfMul_left_cancel hfp h1 ?_⟩
  rw [gfMul_xor_right hfp, gfMul_left_comm hfp _ _ l1, hl1, ← gfMul_assoc hfp, hl2, BitVec.xor_comm, BitVec.xor_assoc,
    BitVec.xor_self, BitVec.xor_zero]

/-- A change at position `i` adds its syndromes to those of the word (R80, R122). -/
theorem rsSyndromes_corrupt {c : List Byte} (hc : c.length = 12) {i : Nat} (hi : i ≤ 11) (e : Byte) :
    rsSyndromes fp (corrupt c (11 - i) e) = addSyndromes (rsSyndromes fp c) (errorSyndromes fp (gfExp fp i) e) := by
  have hshift {j : Nat} (hj : j ≤ 255) :
      horner fp j (corrupt c (11 - i) e) = horner fp j c ^^^ (gfMul fp (gfExp fp i))^[j] e := by
    rw [horner_corrupt hfp j (by omega), hc, iterate_gfMul_gfExp_comm hfp (by omega) hj,
      show 12 - 1 - (11 - i) = i by omega]
  rw [rsSyndromes, hshift (by decide), hshift (by decide), hshift (by decide)]
  rfl

/-- A root of `z² = Λ1·z + Λ2`, times `w`. -/
theorem gfMul_square_of_root {x l1 l2 : Byte} (hx : gfMul fp x (l1 ^^^ x) = l2) (w : Byte) :
    gfMul fp x (gfMul fp x w) = gfMul fp (gfMul fp x w) l1 ^^^ gfMul fp w l2 := by
  have hsquare : gfMul fp x x = gfMul fp x l1 ^^^ l2 := by
    rw [← hx, gfMul_xor_right hfp, ← BitVec.xor_assoc, BitVec.xor_self, BitVec.zero_xor]
  rw [← gfMul_assoc hfp, hsquare, gfMul_xor_left hfp, gfMul_comm fp (gfMul fp x w), ← gfMul_assoc hfp, gfMul_comm fp l1,
    gfMul_comm fp l2]

/-- Two errors satisfy the recurrence of the locator whose inverse roots are their positions (R128). -/
theorem errorSyndromes_recurrence (x y u v : Byte) :
    let T := addSyndromes (errorSyndromes fp x u) (errorSyndromes fp y v)
    T.s3 = gfMul fp T.s2 (x ^^^ y) ^^^ gfMul fp T.s1 (gfMul fp x y) := by
  have hx := gfMul_square_of_root hfp ((gfMul_xor_eq_gfMul_iff hfp x y x).mpr (.inl rfl)) (gfMul fp x u)
  have hy := gfMul_square_of_root hfp ((gfMul_xor_eq_gfMul_iff hfp x y y).mpr (.inr rfl)) (gfMul fp y v)
  simp only [addSyndromes, errorSyndromes]
  rw [hx, hy, xor_xor_xor_comm, ← gfMul_xor_left hfp, ← gfMul_xor_left hfp]

/-- Two errors of one value: the syndromes go on as those of one error at the sum of the two (R143). -/
theorem errorSyndromes_equal (x y v : Byte) :
    let T := addSyndromes (errorSyndromes fp x v) (errorSyndromes fp y v)
    T.s1 = gfMul fp (x ^^^ y) v ∧ T.s2 = gfMul fp T.s1 (x ^^^ y) := by
  have hx := gfMul_square_of_root hfp ((gfMul_xor_eq_gfMul_iff hfp x y x).mpr (.inl rfl)) v
  have hy := gfMul_square_of_root hfp ((gfMul_xor_eq_gfMul_iff hfp x y y).mpr (.inr rfl)) v
  refine ⟨(gfMul_xor_left hfp x y v).symm, ?_⟩
  simp only [addSyndromes, errorSyndromes]
  rw [hx, hy, xor_xor_xor_comm, ← gfMul_xor_left hfp, BitVec.xor_self, BitVec.xor_zero]

/-- Two errors of one value `v` with `v·(x + y) = S1`, under the recurrence of class A (R141, class A4). -/
theorem errorSyndromes_equal_pair {x y v : Byte} {S : Syndromes} (h1 : gfMul fp (x ^^^ y) v = S.s1)
    (h2 : S.s2 = gfMul fp S.s1 (x ^^^ y))
    (h3 : S.s3 = gfMul fp S.s2 (x ^^^ y) ^^^ gfMul fp S.s1 (gfMul fp x y)) :
    addSyndromes (errorSyndromes fp x v) (errorSyndromes fp y v) = S := by
  obtain ⟨hT1, hT2⟩ := errorSyndromes_equal hfp x y v
  have hone := hT1.trans h1
  exact eq_of_recurrence hone (by rw [hT2, hone, h2]) (errorSyndromes_recurrence hfp x y v v) h3

/-- Two errors whose values are `S2/(Λ1·x)` and `S2/(Λ1·y)`, with `S1 = 0` (R141, class B2). -/
theorem errorSyndromes_inverse_pair {x y u v : Byte} {S : Syndromes} (hxy : x ^^^ y ≠ 0#8) (h1 : S.s1 = 0#8)
    (h3 : S.s3 = gfMul fp S.s2 (x ^^^ y)) (hu : gfMul fp (x ^^^ y) (gfMul fp x u) = S.s2)
    (hv : gfMul fp (x ^^^ y) (gfMul fp y v) = S.s2) :
    addSyndromes (errorSyndromes fp x u) (errorSyndromes fp y v) = S := by
  have hfirst : gfMul fp x u ^^^ gfMul fp y v = S.s1 := by
    apply gfMul_left_cancel hfp hxy
    rw [gfMul_xor_right hfp, hu, hv, h1, gfMul_zero_right]
    exact BitVec.xor_self
  have hsecond : gfMul fp x (gfMul fp x u) ^^^ gfMul fp y (gfMul fp y v) = S.s2 := by
    apply gfMul_left_cancel hfp hxy
    rw [gfMul_xor_right hfp, gfMul_left_comm hfp _ x, gfMul_left_comm hfp _ y, hu, hv, ← gfMul_xor_left hfp]
  refine eq_of_recurrence hfirst hsecond (errorSyndromes_recurrence hfp x y u v) ?_
  rw [h1, gfMul_zero_left, BitVec.xor_zero, h3]

variable {c : List Byte}

/-- Syndromes with `S1·S3 = S2²` are in the constant ratio `α^i`, and `v` is what takes `α^i` to `S1` (R141, class A1). -/
theorem exists_single_root {S : Syndromes} (h1 : S.s1 ≠ 0#8) (h2 : S.s2 ≠ 0#8)
    (hratio : gfMul fp S.s1 S.s3 = gfMul fp S.s2 S.s2) :
    ∃ i v, i ≤ 254 ∧ gfDiv fp S.s2 S.s1 = some (gfExp fp i) ∧ gfLog fp (gfExp fp i) = some i ∧
      gfDiv fp (gfMul fp S.s1 S.s1) S.s2 = some v ∧ S.s2 = gfMul fp S.s1 (gfExp fp i) ∧
      S.s3 = gfMul fp S.s2 (gfExp fp i) ∧ gfMul fp (gfExp fp i) v = S.s1 := by
  obtain ⟨x, hx⟩ := exists_gfDiv hfp S.s2 h1
  obtain ⟨v, hv⟩ := exists_gfDiv hfp (gfMul fp S.s1 S.s1) h2
  have hs2 := (gfDiv_eq_some_iff hfp h1).mp hx
  have hs1 := (gfDiv_eq_some_iff hfp h2).mp hv
  have hx0 : x ≠ 0#8 := by
    rintro rfl
    rw [gfMul_zero_right] at hs2
    exact h2 hs2.symm
  obtain ⟨i, hi, hlog, rfl⟩ := exists_gfLog_of_ne_zero hfp hx0
  refine ⟨i, v, hi, hx, hlog, hv, hs2.symm, ?_, ?_⟩
  · apply gfMul_left_cancel hfp h1
    rw [hratio, gfMul_left_comm hfp, hs2]
  · apply gfMul_left_cancel hfp h1
    rw [← gfMul_assoc hfp, hs2, hs1]

/-- Class A with `Λ2 = 0`: one root (R141, class A1). -/
theorem rsDecode_of_one_root {i : Nat} {v : Byte} (hi : i ≤ 254) (h1 : (rsSyndromes fp c).s1 ≠ 0#8)
    (h2 : (rsSyndromes fp c).s2 = gfMul fp (rsSyndromes fp c).s1 (gfExp fp i))
    (h3 : (rsSyndromes fp c).s3 = gfMul fp (rsSyndromes fp c).s2 (gfExp fp i))
    (hv : gfMul fp (gfExp fp i) v = (rsSyndromes fp c).s1) :
    rsDecode fp 12 c = if i ≤ 11 then corrected (corrupt c (11 - i) v) 1 else uncorrected c 1 := by
  have hlocated := located_of_s1_ne_zero hfp (l2 := 0) h1 h2 (by rw [h3, (zero_product fp _).2, (zero_sum _).2])
  rw [chienSearch_linear hfp hi] at hlocated
  split
  next hin =>
    have hval : errorValues fp [1, gfExp fp i, 0, 0, 0, 0, 0] [(rsSyndromes fp c).s1, 0, 0] [i] = some [v] := by
      simp only [errorValues, errorValue_linear hfp (gfExp_ne_zero hfp (show i ≤ 255 by omega)) hv]
    refine hlocated.rsDecode_of_errorValues (List.cons_ne_nil _ _) (show 1 < 3 by decide) ?_ hval
    simpa using Nat.lt_succ_of_le hin
  next hout =>
    exact hlocated.rsDecode_of_notCorrectable (List.cons_ne_nil _ _) (.inr (.inl ⟨i, List.mem_cons_self, by omega⟩))

/-- Class A with two roots whose error values are equal (R141, class A4). -/
theorem rsDecode_of_equal_pair {i j : Nat} {v : Byte} (hij : i < j) (hj : j ≤ 11) (h1 : (rsSyndromes fp c).s1 ≠ 0#8)
    (h2 : (rsSyndromes fp c).s2 = gfMul fp (rsSyndromes fp c).s1 (gfExp fp i ^^^ gfExp fp j))
    (h3 : (rsSyndromes fp c).s3 = gfMul fp (rsSyndromes fp c).s2 (gfExp fp i ^^^ gfExp fp j) ^^^
      gfMul fp (rsSyndromes fp c).s1 (gfMul fp (gfExp fp i) (gfExp fp j)))
    (hv : gfMul fp (gfExp fp i ^^^ gfExp fp j) v = (rsSyndromes fp c).s1) :
    rsDecode fp 12 c = corrected (corrupt (corrupt c (11 - i) v) (11 - j) v) 2 := by
  have hl1 : gfExp fp i ^^^ gfExp fp j ≠ 0#8 := by
    intro hzero
    rw [hzero, gfMul_zero_left] at hv
    exact h1 hv.symm
  have hvalue {k : Nat} (hk : k ≤ 254) := errorValue_quadratic hfp hk (gfExp fp i ^^^ gfExp fp j)
    (gfMul fp (gfExp fp i) (gfExp fp j)) (rsSyndromes fp c).s1 0
  have hquot : gfDiv fp ((rsSyndromes fp c).s1 ^^^ 0) (gfExp fp i ^^^ gfExp fp j) = some v :=
    (gfDiv_eq_some_iff hfp hl1).mpr (hv.trans BitVec.xor_zero.symm)
  rw [rsDecode_of_two_roots hfp hij (by omega) (located_of_s1_ne_zero hfp h1 h2 h3)
    ((hvalue (by omega)).trans hquot) ((hvalue (by omega)).trans hquot), if_pos hj]

end Classes

end Sys2Proof.Proofs
end

section
/-! The statements about the decoder's outcomes (spec/42_rs_decode.md R141, R143, spec/60_exceptions.md R174). -/

namespace Sys2Proof.Proofs

open Sys2Proof.Machine Sys2Proof.Safety

/-- Settles O57: zero syndromes end it at once, and any others through the three endings by positions. -/
theorem decoderHasFourEndings : Obligations.DecoderHasFourEndings := by
  intro fp _ c _ r
  cases hzero : (rsSyndromes fp c).allZero with
  | true =>
    have hr : r = _ := rsDecode_of_allZero hzero
    rw [hr]
    exact .inl ⟨rfl, rfl, rfl, rfl⟩
  | false =>
    have hlocated : Located fp c _ _ _ := ⟨hzero, rfl, rfl, rfl⟩
    rcases hlocated.rsDecode_cases with hr | ⟨n, hr⟩ | ⟨c', n, hn, hr⟩ <;> rw [show r = _ from hr]
    · exact .inr (.inr (.inl ⟨rfl, rfl, rfl, rfl⟩))
    · exact .inr (.inr (.inr ⟨rfl, rfl, rfl⟩))
    · exact .inr (.inl ⟨rfl, hn, rfl⟩)

/-- Settles O53: the second coefficient of the locator is zero, and the one root is the quotient of the syndromes. -/
theorem singleRootClassIsCorrectedInRange : Obligations.SingleRootClassIsCorrectedInRange := by
  intro fp hfp c _ S h1 h2 hratio
  obtain ⟨i, v, hi, hx, hlog, hv, hs2, hs3, hs1⟩ := exists_single_root hfp h1 h2 hratio
  exact ⟨_, i, v, hx, hlog, hv, rsDecode_of_one_root hfp hi h1 hs2 hs3 hs1⟩

/-- Settles O54: a constant locator has no root, a locator with no linear coefficient a double root, and a pure cube three
roots or none. -/
theorem uncorrectedClassesReturnTheWordUnchanged : Obligations.UncorrectedClassesReturnTheWordUnchanged := by
  intro fp hfp c _ S r
  have hlocatedA (h1 : S.s1 ≠ 0) (h2 : S.s2 = 0) (l2 : Byte) (hl2 : S.s3 = gfMul fp S.s1 l2) :
      Located fp c [1, 0, l2, 0, 0, 0, 0] [S.s1, 0, 0] (chienSearch fp [1, 0, l2, 0, 0, 0, 0]) := by
    refine located_of_s1_ne_zero hfp h1 (h2.trans (gfMul_zero_right fp _).symm) (hl2.trans ?_)
    rw [(zero_product fp _).2, (zero_sum _).1]
  refine ⟨fun h1 h2 h3 => ?classA2, ?classA3B1, fun h1 h2 h3 => ?classC⟩
  case classA2 =>
    exact (hlocatedA h1 h2 0 (h3.trans (gfMul_zero_right fp _).symm)).rsDecode_of_nil (chienSearch_constant hfp)
  case classA3B1 =>
    rintro (⟨h1, h2, h3⟩ | ⟨h1, h2, h3⟩)
    · obtain ⟨l2, hl2⟩ := exists_gfDiv hfp S.s3 h1
      rw [gfDiv_eq_some_iff hfp h1] at hl2
      refine rsDecode_of_double_root hfp ?_ (hlocatedA h1 h2 l2 hl2.symm)
      rintro rfl
      rw [gfMul_zero_right] at hl2
      exact h3 hl2.symm
    · exact rsDecode_of_double_root hfp h2 (located_of_s2_ne_zero hfp h1 h2 (h3.trans (gfMul_zero_right fp _).symm))
  case classC =>
    obtain ⟨l, -, hlog, -⟩ := exists_gfLog_of_ne_zero hfp h3
    have hlen := chienSearch_cube_length hfp hlog
    have hlocated := located_of_s3_ne_zero hfp h1 h2 h3
    refine ⟨l, hlog, ?_⟩
    split at hlen
    next hthree =>
      have hne := List.ne_nil_of_length_eq_add_one hlen
      have hdecode := hlocated.rsDecode_of_notCorrectable hne (.inl hlen.ge)
      rw [hlen] at hdecode
      exact hdecode.trans (if_pos hthree).symm
    next hthree =>
      exact (hlocated.rsDecode_of_nil (List.length_eq_zero_iff.mp hlen)).trans (if_neg hthree).symm

/-- Settles O55: the locator has degree two with both coefficients nonzero, and the error values are the class's quotients. -/
theorem twoRootClassesAreCorrectedInRange : Obligations.TwoRootClassesAreCorrectedInRange := by
  intro fp hfp c _ S outcome
  refine ⟨fun h1 h2 hratio => ?classA4, fun h1 h2 h3 => ?classB2⟩
  case classA4 =>
    obtain ⟨l1, l2, hl1, hl2, hs2, hs3⟩ := exists_recurrence hfp h1
    have hne1 : l1 ≠ 0#8 := by
      rintro rfl
      exact h2 (hs2.trans (gfMul_zero_right fp _))
    have hne2 : l2 ≠ 0#8 := by
      rintro rfl
      rw [gfMul_zero_right, BitVec.xor_zero] at hs3
      rw [hs3, gfMul_left_comm hfp, ← hs2] at hratio
      exact hratio rfl
    refine ⟨l1, l2, hl1, hl2, rsDecode_of_quadratic hfp hne1 hne2 (located_of_s1_ne_zero hfp h1 hs2 hs3)
      fun i hi => ⟨?_, exists_gfDiv hfp _ h2⟩⟩
    rw [errorValue_quadratic hfp hi, (zero_product fp _).1, (zero_sum _).2]
    exact gfDiv_congr hfp hne1 h2 (by rw [hs2, gfMul_assoc hfp])
  case classB2 =>
    obtain ⟨l1, hl1⟩ := exists_gfDiv hfp S.s3 h2
    have hs3 := ((gfDiv_eq_some_iff hfp h2).mp hl1).symm
    have hne1 : l1 ≠ 0#8 := by
      rintro rfl
      exact h3 (hs3.trans (gfMul_zero_right fp _))
    refine ⟨l1, hl1, rsDecode_of_quadratic hfp hne1 h2 (located_of_s2_ne_zero hfp h1 h2 hs3) fun i hi => ?_⟩
    have hden : gfMul fp S.s3 (gfExp fp i) ≠ 0#8 := gfMul_ne_zero hfp h3 (gfExp_ne_zero hfp (by omega))
    refine ⟨?_, exists_gfDiv hfp _ hden⟩
    rw [errorValue_quadratic hfp hi, (zero_sum _).1]
    refine gfDiv_congr hfp hne1 hden ?_
    rw [gfMul_comm fp S.s3, gfMul_assoc hfp, ← gfMul_assoc hfp (gfExp fp (255 - i)), gfMul_comm fp (gfExp fp (255 - i)),
      gfMul_gfExp_inverse hfp hi, gfMul_one_left hfp, hs3, gfMul_assoc hfp]

/-- Settles O52: two errors of one value satisfy the recurrence of the locator with their positions, and its error value is
that value. -/
theorem equalDoubleErrorsAreCorrected : Obligations.EqualDoubleErrorsAreCorrected := by
  intro fp hfp d p q e hd hpq hq he
  have hlen : (rsEncode fp d).length = 12 := by rw [rsEncode_length, hd]
  have hi : 11 - (11 - q) = q := by omega
  have hj : 11 - (11 - p) = p := by omega
  have hS : rsSyndromes fp (corrupt (corrupt (rsEncode fp d) p e) q e) =
      addSyndromes (errorSyndromes fp (gfExp fp (11 - q)) e) (errorSyndromes fp (gfExp fp (11 - p)) e) := by
    rw [corrupt_comm _ (by omega), ← hi, ← hj, rsSyndromes_corrupt hfp (by rw [corrupt_length, hlen]) (by omega),
      rsSyndromes_corrupt hfp hlen (by omega), rsSyndromes_rsEncode hfp, zero_addSyndromes, hi, hj]
  obtain ⟨hs1, hs2⟩ := errorSyndromes_equal hfp (gfExp fp (11 - q)) (gfExp fp (11 - p)) e
  have hs3 := errorSyndromes_recurrence hfp (gfExp fp (11 - q)) (gfExp fp (11 - p)) e e
  rw [← hS] at hs1 hs2 hs3
  have hdiffer : gfExp fp (11 - q) ^^^ gfExp fp (11 - p) ≠ 0#8 := by
    intro hzero
    have heq := gfExp_inj hfp (by omega) (by omega) (BitVec.xor_eq_zero_iff.mp hzero)
    omega
  have hdecode := rsDecode_of_equal_pair hfp (show 11 - q < 11 - p by omega) (by omega)
    (hs1 ▸ gfMul_ne_zero hfp hdiffer he) hs2 hs3 hs1.symm
  rwa [hi, hj, corrupt_corrupt, corrupt_corrupt] at hdecode

end Sys2Proof.Proofs
end

section
/-! SUPPORT. A correction leaves zero syndromes: in each class that corrects, the errors taken out have the syndromes of the
word (spec/42_rs_decode.md R143). -/

namespace Sys2Proof.Proofs

open Sys2Proof.Machine Sys2Proof.Safety

/-- Wherever the result is a correction, the word it returns has zero syndromes. -/
def CorrectsToCodeword (fp : BitVec 9) (r : DecodeResult) : Prop :=
  ∀ c' n, 0 < n → r = corrected c' n → rsSyndromes fp c' = { s1 := 0, s2 := 0, s3 := 0 }

theorem correctsToCodeword_unlocated (fp : BitVec 9) (c : List Byte) : CorrectsToCodeword fp (unlocated c) := by
  intro c' n hn h
  cases h
  cases hn

theorem correctsToCodeword_uncorrected (fp : BitVec 9) (c : List Byte) (n : Nat) :
    CorrectsToCodeword fp (uncorrected c n) := by
  intro c' m _ h
  cases h

theorem correctsToCodeword_corrected {fp : BitVec 9} {c : List Byte} (n : Nat)
    (h : rsSyndromes fp c = { s1 := 0, s2 := 0, s3 := 0 }) : CorrectsToCodeword fp (corrected c n) := by
  intro c' m _ h'
  cases h'
  exact h

/-- A correction that is made in range only. -/
theorem correctsToCodeword_ite {fp : BitVec 9} {c c' : List Byte} {j n m : Nat}
    (h : j ≤ 11 → rsSyndromes fp c' = { s1 := 0, s2 := 0, s3 := 0 }) :
    CorrectsToCodeword fp (if j ≤ 11 then corrected c' n else uncorrected c m) := by
  split
  next hin => exact correctsToCodeword_corrected n (h hin)
  next => exact correctsToCodeword_uncorrected fp c m

section Repairs

variable {fp : BitVec 9} (hfp : fp ∈ Config.fieldPolys) {c : List Byte} (hc : c.length = 12)
include hfp hc

/-- One correction that has the word's syndromes. -/
theorem rsSyndromes_corrupt_eq_zero {i : Nat} {v : Byte} (hi : i ≤ 11)
    (h : errorSyndromes fp (gfExp fp i) v = rsSyndromes fp c) :
    rsSyndromes fp (corrupt c (11 - i) v) = { s1 := 0, s2 := 0, s3 := 0 } := by
  rw [rsSyndromes_corrupt hfp hc hi, h, addSyndromes_self]

/-- Two corrections that have the word's syndromes together. -/
theorem rsSyndromes_corrupt_corrupt_eq_zero {i j : Nat} {u v : Byte} (hi : i ≤ 11) (hj : j ≤ 11)
    (h : addSyndromes (errorSyndromes fp (gfExp fp i) u) (errorSyndromes fp (gfExp fp j) v) = rsSyndromes fp c) :
    rsSyndromes fp (corrupt (corrupt c (11 - i) u) (11 - j) v) = { s1 := 0, s2 := 0, s3 := 0 } := by
  rw [rsSyndromes_corrupt hfp (by rw [corrupt_length, hc]) hj, rsSyndromes_corrupt hfp hc hi, addSyndromes_assoc, h,
    addSyndromes_self]

/-- Class A1 (R143). -/
theorem correctsToCodeword_of_single_root (h1 : (rsSyndromes fp c).s1 ≠ 0) (h2 : (rsSyndromes fp c).s2 ≠ 0)
    (hratio : gfMul fp (rsSyndromes fp c).s1 (rsSyndromes fp c).s3 =
      gfMul fp (rsSyndromes fp c).s2 (rsSyndromes fp c).s2) : CorrectsToCodeword fp (rsDecode fp 12 c) := by
  obtain ⟨i, v, hi, -, -, -, hs2, hs3, hs1⟩ := exists_single_root hfp h1 h2 hratio
  rw [rsDecode_of_one_root hfp hi h1 hs2 hs3 hs1]
  exact correctsToCodeword_ite fun hin =>
    rsSyndromes_corrupt_eq_zero hfp hc hin (errorSyndromes_of_ratio hs1 hs2 hs3)

/-- Class A4 (R143). -/
theorem correctsToCodeword_of_equal_pair (h1 : (rsSyndromes fp c).s1 ≠ 0) (h2 : (rsSyndromes fp c).s2 ≠ 0)
    (hratio : gfMul fp (rsSyndromes fp c).s1 (rsSyndromes fp c).s3 ≠
      gfMul fp (rsSyndromes fp c).s2 (rsSyndromes fp c).s2) : CorrectsToCodeword fp (rsDecode fp 12 c) := by
  obtain ⟨hclassA4, -⟩ := twoRootClassesAreCorrectedInRange fp hfp c hc
  obtain ⟨l1, l2, hl1, hl2, houtcome⟩ := hclassA4 h1 h2 hratio
  obtain ⟨m1, m2, hm1, hm2, hs2, hs3⟩ := exists_recurrence hfp h1
  obtain rfl : m1 = l1 := Option.some.inj (hm1.symm.trans hl1)
  obtain rfl : m2 = l2 := Option.some.inj (hm2.symm.trans hl2)
  rcases houtcome with ⟨-, hdecode⟩ | ⟨i, j, u, v, hij, -, rfl, rfl, hu, hv, hdecode⟩
  · exact hdecode ▸ correctsToCodeword_unlocated fp c
  · obtain rfl : u = v := Option.some.inj (hu.symm.trans hv)
    have hs1 : gfMul fp (gfExp fp i ^^^ gfExp fp j) u = (rsSyndromes fp c).s1 := by
      apply gfMul_left_cancel hfp h1
      rw [← gfMul_assoc hfp, ← hs2, (gfDiv_eq_some_iff hfp h2).mp hu]
    rw [hdecode]
    exact correctsToCodeword_ite fun hin => rsSyndromes_corrupt_corrupt_eq_zero hfp hc (by omega) hin
      (errorSyndromes_equal_pair hfp hs1 hs2 hs3)

/-- Class B2 (R143). -/
theorem correctsToCodeword_of_inverse_pair (h1 : (rsSyndromes fp c).s1 = 0) (h2 : (rsSyndromes fp c).s2 ≠ 0)
    (h3 : (rsSyndromes fp c).s3 ≠ 0) : CorrectsToCodeword fp (rsDecode fp 12 c) := by
  obtain ⟨-, hclassB2⟩ := twoRootClassesAreCorrectedInRange fp hfp c hc
  obtain ⟨l1, hl1, houtcome⟩ := hclassB2 h1 h2 h3
  have hs3 := ((gfDiv_eq_some_iff hfp h2).mp hl1).symm
  rcases houtcome with ⟨-, hdecode⟩ | ⟨i, j, u, v, hij, hj, rfl, -, hu, hv, hdecode⟩
  · exact hdecode ▸ correctsToCodeword_unlocated fp c
  · have hvalue {k : Nat} {w : Byte} (hk : k ≤ 254) (hw : gfDiv fp (gfMul fp (rsSyndromes fp c).s2 (rsSyndromes fp c).s2)
        (gfMul fp (rsSyndromes fp c).s3 (gfExp fp k)) = some w) :
        gfMul fp (gfExp fp i ^^^ gfExp fp j) (gfMul fp (gfExp fp k) w) = (rsSyndromes fp c).s2 := by
      rw [gfDiv_eq_some_iff hfp (gfMul_ne_zero hfp h3 (gfExp_ne_zero hfp (by omega)))] at hw
      apply gfMul_left_cancel hfp h2
      rw [← gfMul_assoc hfp, ← gfMul_assoc hfp, ← hs3, hw]
    have hdiffer : gfExp fp i ^^^ gfExp fp j ≠ 0#8 := by
      intro hzero
      rw [hzero, gfMul_zero_right] at hs3
      exact h3 hs3
    rw [hdecode]
    exact correctsToCodeword_ite fun hin => rsSyndromes_corrupt_corrupt_eq_zero hfp hc (by omega) hin
      (errorSyndromes_inverse_pair hfp hdiffer h1 hs3 (hvalue (by omega) hu) (hvalue hj hv))

/-- Whatever class the word is in (R143). -/
theorem correctsToCodeword_rsDecode : CorrectsToCodeword fp (rsDecode fp 12 c) := by
  obtain ⟨hclassA2, hclassA3B1, hclassC⟩ := uncorrectedClassesReturnTheWordUnchanged fp hfp c hc
  have hdouble (h : rsDecode fp 12 c = uncorrected c 1) : CorrectsToCodeword fp (rsDecode fp 12 c) :=
    h ▸ correctsToCodeword_uncorrected fp c 1
  by_cases h1 : (rsSyndromes fp c).s1 = 0
  · by_cases h2 : (rsSyndromes fp c).s2 = 0
    · by_cases h3 : (rsSyndromes fp c).s3 = 0
      · have hclean := rsDecode_of_allZero ((allZero_eq_decide _).trans (decide_eq_true ⟨h1, h2, h3⟩))
        intro c' n _ h
        cases hclean.symm.trans h
      · obtain ⟨l, -, hdecode⟩ := hclassC h1 h2 h3
        rw [hdecode]
        split
        · exact correctsToCodeword_uncorrected fp c 3
        · exact correctsToCodeword_unlocated fp c
    · by_cases h3 : (rsSyndromes fp c).s3 = 0
      · exact hdouble (hclassA3B1 (.inr ⟨h1, h2, h3⟩))
      · exact correctsToCodeword_of_inverse_pair hfp hc h1 h2 h3
  · by_cases h2 : (rsSyndromes fp c).s2 = 0
    · by_cases h3 : (rsSyndromes fp c).s3 = 0
      · exact hclassA2 h1 h2 h3 ▸ correctsToCodeword_unlocated fp c
      · exact hdouble (hclassA3B1 (.inl ⟨h1, h2, h3⟩))
    · by_cases hratio : gfMul fp (rsSyndromes fp c).s1 (rsSyndromes fp c).s3 =
          gfMul fp (rsSyndromes fp c).s2 (rsSyndromes fp c).s2
      · exact correctsToCodeword_of_single_root hfp hc h1 h2 hratio
      · exact correctsToCodeword_of_equal_pair hfp hc h1 h2 hratio

end Repairs

end Sys2Proof.Proofs
end

section
/-! The statement about the words the decoder corrects (spec/42_rs_decode.md R143). -/

namespace Sys2Proof.Proofs

open Sys2Proof.Machine Sys2Proof.Safety

/-- Settles O56: in every class, what a correction adds to the word has the word's own syndromes. -/
theorem correctedOutputIsACodeword : Obligations.CorrectedOutputIsACodeword := fun _ hfp _ c' n hc hn hdecode =>
  correctsToCodeword_rsDecode hfp hc c' n hn hdecode

end Sys2Proof.Proofs
end
